-- ==== Sys2Proof/Word.lean ====
section
/-! DEFINITION. The widths the source fixes (00_scope.md R5), as named bit-vector types, and nothing else.
Everything the block shifts, masks or puts on the wire is a bit vector; counts, line numbers and lists are not. -/

namespace Sys2Proof

/-- A command opcode, OPC_W = 4 bits (R5). -/
abbrev Opcode := BitVec 4

/-- A payload, DATA_W = 16 bits (R5). -/
abbrev Data := BitVec 16

/-- A register frame, FRAME_W = 24 bits (R5, R60). -/
abbrev Frame := BitVec 24

/-- One byte of the byte view of a frame (R44, R64). -/
abbrev Byte := BitVec 8

end Sys2Proof
end

