-- ==== Sys2Proof/Config.lean ====
section
/-! DEFINITION. The constants of the source (R5, R92), the parameters the source leaves to the platform (R6), and
the model's two free values (what a device sees of an undriven pin, R53, R162, and the bits of a cut frame that it did not
receive, R162). A configuration is plain data held
in State and written by no step, so that a statement about every state is a statement about every configuration. -/

namespace Sys2Proof

/-- OPC_LSB: the opcode stands at frame bits 23 to 20 (R5, R61; 90_conflicts.md C6). -/
def opcLsb : Nat := 20

/-- CONTROL_REG_VAL, the catalog's constant for the host: 16 opaque bits (R5, R92). No rule of the block reads it. -/
def controlRegVal : Data := 0b0000000001001000#16

/-- The platform's parameters (R6). -/
structure Config where
  /-- CS_CFG as its characteristic vector, one entry for each chip-select output: entry i says whether select line i
  is one that INIT configures. Its length is N_CS. -/
  csCfg  : List Bool
  /-- CLK_DIV, system-clock cycles per tick; no rule reads it (R6, R31, R176). -/
  clkDiv : Nat
  /-- The board, not the block (R162, 91_not_in_source.md N9): entry i says that select line i carries a pull-up, so
  that the device reads the line as high while the block does not drive it. DESIGN CHOICE, notes/assumptions/3.md. -/
  pullUp : List Bool
  deriving DecidableEq, Repr

namespace Config

/-- N_CS, the number of chip-select outputs (R6). -/
def nCs (c : Config) : Nat := c.csCfg.length

/-- SELW = max(1, ceil(log2 N_CS)), the width of the select identifier (R6). -/
def selW (c : Config) : Nat := max 1 (if c.nCs ≤ 1 then 0 else Nat.log2 (c.nCs - 1) + 1)

/-- Line i is in CS_CFG. -/
def hasLine (c : Config) (i : Nat) : Bool := c.csCfg.getD i false

/-- mask(CS_CFG) of R104: bit i = 1 exactly when i is in CS_CFG. -/
def csMask (c : Config) : List Bool := c.csCfg

/-- Line i reads as high at its device while it is undriven. -/
def pulledUp (c : Config) (i : Nat) : Bool := c.pullUp.getD i false

/-- The constraints R6 puts on the parameters: CS_CFG is a non-empty set of lines (so N_CS >= 1), CLK_DIV >= 1. -/
def valid (c : Config) : Bool := c.csCfg.any id && decide (1 ≤ c.clkDiv)

/-- The defaults for tests of 92_eei_decisions.md ("Open parameters in one place"): N_CS = 2, CS_CFG = all,
CLK_DIV = 1; with the pull-ups of program P4's first case. DESIGN CHOICE, notes/assumptions/2.md and 3.md. -/
def standard : Config := { csCfg := [true, true], clkDiv := 1, pullUp := [true, true] }

end Config

/-- What the observer may be left with when a device's input is undefined: its shift register, its count, and perhaps a
record it appended. -/
structure FloatSeen where
  sr     : Frame
  cnt    : Nat
  record : Option (Frame × Nat)
  deriving DecidableEq, Repr, Inhabited

/-- FREE VALUE. What the device on a line sees when a pin it needs is undriven and nothing pulls it: "If a pin involved
is Z the observer step is undefined" (R53), "if it floats, nothing defined can be said" (R162). Applied to the
observer's draw counter and the line. It has no body: nothing can be proved of its value.
notes/assumptions/4.md. -/
opaque Config.floatSeen : Nat → Nat → FloatSeen

/-- FREE VALUE. The bits of a partial record that no sampling edge wrote: a frame cut by reset is recorded "with the
record's bits f unconstrained above the n received" (R162; U20, "any value"). Applied to the observer's draw counter and the
line. It has no body: nothing can be proved of its value. notes/assumptions/4.md. -/
opaque Config.unreceivedBits : Nat → Nat → Frame

end Sys2Proof
end

