-- ==== Sys2Proof/Syntax.lean ====
section
/-! DEFINITION. The instruction set: one constructor for each row of opcode_table.json (R2, R66, R104, R105). -/

namespace Sys2Proof

/-- The instructions. The eleven rows of format FRAME24 are the catalog's commands, each the operation WRITE with
that command's opcode (R81 to R91); the two rows of format HOSTCMD are the host's operations themselves, WRITE with
any of the sixteen opcode values the port can carry (R70, R71). `sel` is the select-line identifier; that it fits the
port's SELW bits is WellFormed's check. -/
inductive Instr where
  /-- NOP, opcode 0x0 (R81). -/
  | nop (data : Data) (sel : Nat)
  /-- WRITE_TO_INPUT, opcode 0x1 (R82). -/
  | writeToInput (data : Data) (sel : Nat)
  /-- UPDATE_DAC, opcode 0x2 (R83). -/
  | updateDac (data : Data) (sel : Nat)
  /-- WRITE_AND_UPDATE, opcode 0x3 (R84). -/
  | writeAndUpdate (data : Data) (sel : Nat)
  /-- WRITE_CONTROL, opcode 0x4 (R85). -/
  | writeControl (data : Data) (sel : Nat)
  /-- SOFTWARE_DATA_RESET, opcode 0x7 (R86). -/
  | softwareDataReset (data : Data) (sel : Nat)
  /-- DISABLE_DAISY_CHAIN, opcode 0x9 (R87). -/
  | disableDaisyChain (data : Data) (sel : Nat)
  /-- READ_INPUT, opcode 0xA (R88). -/
  | readInput (data : Data) (sel : Nat)
  /-- READ_DAC, opcode 0xB (R89). -/
  | readDac (data : Data) (sel : Nat)
  /-- READ_CONTROL, opcode 0xC (R90). -/
  | readControl (data : Data) (sel : Nat)
  /-- SOFTWARE_FULL_RESET, opcode 0xF (R91). -/
  | softwareFullReset (data : Data) (sel : Nat)
  /-- INIT (R104). -/
  | init
  /-- WRITE with the opcode as four plain bits (R105, R71). -/
  | write (opcode : Opcode) (data : Data) (sel : Nat)
  deriving DecidableEq, Repr

end Sys2Proof
end

