-- ==== Sys2Proof/WellFormed.lean ====
section
/-! DEFINITION. Which instructions the command port can carry: the select identifier has the port's SELW bits
(R24, R70). Every other operand's width is in its type. -/

namespace Sys2Proof

/-- The identifier fits `cmd_sel`, SELW bits wide (R24). -/
def selFits (selW sel : Nat) : Bool := decide (sel < 2 ^ selW)

/-- The instruction can be presented on a command port whose select identifier is `selW` bits wide. -/
def Instr.wellFormed (selW : Nat) : Instr → Bool
  | .nop _ sel => selFits selW sel
  | .writeToInput _ sel => selFits selW sel
  | .updateDac _ sel => selFits selW sel
  | .writeAndUpdate _ sel => selFits selW sel
  | .writeControl _ sel => selFits selW sel
  | .softwareDataReset _ sel => selFits selW sel
  | .disableDaisyChain _ sel => selFits selW sel
  | .readInput _ sel => selFits selW sel
  | .readDac _ sel => selFits selW sel
  | .readControl _ sel => selFits selW sel
  | .softwareFullReset _ sel => selFits selW sel
  | .init => true
  | .write _ _ sel => selFits selW sel

end Sys2Proof
end

