-- ==== Sys2Proof/Decode.lean ====
section
/-! DEFINITION. The two formats of 30_encoding.md, frame assembly, the decoder (total, refusing by name) and the
encoder. FRAME24 is the catalog form of a command (the frame that shall go on the wire, and the line it goes to);
HOSTCMD is the set of command-port values (R70). Both are what a host line of the script syntax R72 names:
`WRITE mnemonic, data, select` and `INIT` / `WRITE # opnum, data, select`. -/

namespace Sys2Proof

/-- The operand ports of the command port (R24), sampled together (R70). `cmd_valid` is whether there is a value of
this type at all. -/
structure Ports where
  /-- `cmd_kind`: 0 (false) INIT, 1 (true) WRITE. -/
  kind   : Bool
  /-- `cmd_opcode`. -/
  opcode : Opcode
  /-- `cmd_data`. -/
  data   : Data
  /-- `cmd_sel`. -/
  sel    : Nat
  deriving DecidableEq, Repr

/-- A command as the host writes it, in one of the opcode table's two formats. -/
inductive HostCmd where
  /-- Format FRAME24: a catalog command by the frame it sends (R61), and the select line. -/
  | frame24 (f : Frame) (sel : Nat)
  /-- Format HOSTCMD: the values of the operand ports (R70). -/
  | hostcmd (p : Ports)
  deriving DecidableEq, Repr

/-- Why the decoder refuses. R69 has the one outcome NotOurs; that it has two reasons here, reservedBits before
reservedOpcode, is the model's choice (DESIGN CHOICE, notes/assumptions/20.md). -/
inductive Reject where
  /-- Frame bits 19:16 are not zero: "A 24-bit value with any of bits 19:16 set is not a frame of this block" (R68). -/
  | reservedBits
  /-- The frame's opcode is reserved: no catalog command has it (R67, R69). -/
  | reservedOpcode
  /-- The select identifier is wider than the port (R24, D26). -/
  | selTooWide
  /-- Fewer than the three bytes of a frame (R60, R64). -/
  | truncated
  deriving DecidableEq, Repr

/-- `Frame(op, data)`: both zero-extended, the opcode moved to bits 23:20 (R62). -/
def frame (op : Opcode) (data : Data) : Frame := (op.setWidth 24 <<< opcLsb) ||| data.setWidth 24

/-- The frame's opcode field, bits 23:20 (R61). -/
def frameOpcode (f : Frame) : Opcode := f.extractLsb' 20 4

/-- The frame's reserved field, bits 19:16 (R61). -/
def frameRsvd (f : Frame) : BitVec 4 := f.extractLsb' 16 4

/-- The frame's data field, bits 15:0 (R61). -/
def frameData (f : Frame) : Data := f.extractLsb' 0 16

/-- `ValidOpcode(op)`: the eleven values of the catalog (R66). -/
def validOpcode (op : Opcode) : Bool :=
  [0x0#4, 0x1#4, 0x2#4, 0x3#4, 0x4#4, 0x7#4, 0x9#4, 0xA#4, 0xB#4, 0xC#4, 0xF#4].contains op

/-- The byte view of a frame, first on the wire first (R44, R64). -/
def frameBytes (f : Frame) : List Byte := [f.extractLsb' 16 8, f.extractLsb' 8 8, f.extractLsb' 0 8]

/-- `DecodeFrame`, with the line the frame goes to (R69). `NotOurs` is split by its reason (notes/assumptions/20.md). -/
def decodeFrame (f : Frame) (sel : Nat) : Except Reject Instr :=
  if frameRsvd f ≠ 0#4 then .error .reservedBits
  else match frameOpcode f with
    | 0x0#4 => .ok (.nop (frameData f) sel)
    | 0x1#4 => .ok (.writeToInput (frameData f) sel)
    | 0x2#4 => .ok (.updateDac (frameData f) sel)
    | 0x3#4 => .ok (.writeAndUpdate (frameData f) sel)
    | 0x4#4 => .ok (.writeControl (frameData f) sel)
    | 0x7#4 => .ok (.softwareDataReset (frameData f) sel)
    | 0x9#4 => .ok (.disableDaisyChain (frameData f) sel)
    | 0xA#4 => .ok (.readInput (frameData f) sel)
    | 0xB#4 => .ok (.readDac (frameData f) sel)
    | 0xC#4 => .ok (.readControl (frameData f) sel)
    | 0xF#4 => .ok (.softwareFullReset (frameData f) sel)
    | _ => .error .reservedOpcode

/-- The operation a set of port values names: `cmd_kind` alone decides (R70, R103); all sixteen opcode values of a
WRITE are instructions, the reserved ones fault when accepted (R71, R131). -/
def decodePorts (p : Ports) : Instr := if p.kind then .write p.opcode p.data p.sel else .init

/-- The decoder, for a command port whose select identifier is `selW` bits wide. -/
def decode (selW : Nat) : HostCmd → Except Reject Instr
  | .frame24 f sel => if selFits selW sel then decodeFrame f sel else .error .selTooWide
  | .hostcmd p => if selFits selW p.sel then .ok (decodePorts p) else .error .selTooWide

/-- The decoder on the bytes of a frame, most significant byte first (R64): the instruction and the bytes left over. -/
def decodeBytes (sel : Nat) : List Byte → Except Reject (Instr × List Byte)
  | b0 :: b1 :: b2 :: rest =>
    match decodeFrame (b0 ++ b1 ++ b2) sel with
    | .ok i => .ok (i, rest)
    | .error r => .error r
  | _ => .error .truncated

/-- The encoder: a catalog command in format FRAME24 (R61, R62), INIT and the raw WRITE in format HOSTCMD (R70; the
ports that INIT ignores are zero). -/
def encode : Instr → HostCmd
  | .nop data sel => .frame24 (frame 0x0#4 data) sel
  | .writeToInput data sel => .frame24 (frame 0x1#4 data) sel
  | .updateDac data sel => .frame24 (frame 0x2#4 data) sel
  | .writeAndUpdate data sel => .frame24 (frame 0x3#4 data) sel
  | .writeControl data sel => .frame24 (frame 0x4#4 data) sel
  | .softwareDataReset data sel => .frame24 (frame 0x7#4 data) sel
  | .disableDaisyChain data sel => .frame24 (frame 0x9#4 data) sel
  | .readInput data sel => .frame24 (frame 0xA#4 data) sel
  | .readDac data sel => .frame24 (frame 0xB#4 data) sel
  | .readControl data sel => .frame24 (frame 0xC#4 data) sel
  | .softwareFullReset data sel => .frame24 (frame 0xF#4 data) sel
  | .init => .hostcmd { kind := false, opcode := 0#4, data := 0#16, sel := 0 }
  | .write op data sel => .hostcmd { kind := true, opcode := op, data := data, sel := sel }

/-- The command that the opcode table's bits `w` stand for. A row of 24 bits is FRAME24: the frame, then the select
identifier above it. Any other row is HOSTCMD, whose fields are separate ports and not a packed word (R70): the table
numbers only `cmd_kind`, bit 0; the model lays the other ports above it in the order of R70 (opcode 4:1, data 20:5,
select from 21). DESIGN CHOICE, notes/assumptions/7.md. -/
def tableCmd (nbits w : Nat) : HostCmd :=
  if nbits = 24 then .frame24 (BitVec.ofNat 24 w) (w / 2 ^ 24)
  else .hostcmd { kind := w % 2 == 1, opcode := BitVec.ofNat 4 (w / 2), data := BitVec.ofNat 16 (w / 2 ^ 5),
                  sel := w / 2 ^ 21 }

/-- The instruction the decoder reads from an opcode-table word, on the default configuration's port. -/
def decodeTableWord (nbits w : Nat) : Option Instr :=
  match decode Config.standard.selW (tableCmd nbits w) with
  | .ok i => some i
  | .error _ => none

end Sys2Proof
end

