-- ==== Sys2Proof/Machine/State.lean ====
section
/-! DEFINITION. The state of the three agents of R10: the block (the eight registers of R11), the devices as the
observer of R52 sees them, and the host as the script lines it has not finished (R72, R118). Plain data throughout. -/

namespace Sys2Proof.Machine

/-- PHASE (R13): IDLE = 0, SELECTED = 1, TRANSMITTING = 2; the code 3 is never written, so it is no value here. -/
inductive Phase where
  | idle
  | selected
  | transmitting
  deriving DecidableEq, Repr

/-- What FAULT_CAUSE holds (R19, R137): no fault, or the cause of the first one; the codes 5 to 7 are never written. -/
inductive Cause where
  /-- Code 0: no fault since reset. -/
  | noFault
  /-- Code 1: WRITE with an opcode outside the catalog (R131). -/
  | invalidOpcode
  /-- Code 2: WRITE before INIT (R132). -/
  | busUninit
  /-- Code 3: WRITE to a line INIT has not configured (R133). -/
  | selUninit
  /-- Code 4: INIT when the bus is initialised (R134). -/
  | doubleInit
  deriving DecidableEq, Repr

/-- The complete state of the block: eight registers (R11). -/
structure Block where
  /-- BUS_INIT, 1 bit (R17). -/
  busInit    : Bool
  /-- CS_INIT, N_CS bits, bit i at index i (R18). -/
  csInit     : List Bool
  /-- FAULT_CAUSE, 3 bits (R19). -/
  faultCause : Cause
  /-- PHASE, 2 bits (R13). -/
  phase      : Phase
  /-- SHREG, 24 bits, next bit to send in bit 23 (R12). -/
  shReg      : Frame
  /-- BITCNT, 5 bits (R14). -/
  bitCnt     : BitVec 5
  /-- SELREG, SELW bits: a line number (R15). -/
  selReg     : Nat
  /-- SCLK_REG, 1 bit (R16). -/
  sclkReg    : Bool
  deriving DecidableEq, Repr

/-- The observer's state for one select line (R52). -/
structure Device where
  /-- DEV_SR, 24 bits. -/
  sr  : Frame
  /-- DEV_CNT, a natural number. -/
  cnt : Nat
  deriving DecidableEq, Repr

/-- A record `Deliver(i, f, n)` (R52): in one low pulse on line i the device saw n sampling edges, and the last 24
sampled bits are f. -/
structure Deliver where
  line  : Nat
  bits  : Frame
  count : Nat
  deriving DecidableEq, Repr

/-- The observer (R52). -/
structure Observer where
  /-- DEV_SR and DEV_CNT of each line, line i at index i. -/
  devs      : List Device
  /-- DELIVERED, oldest first. -/
  delivered : List Deliver
  /-- The model's own: how many steps have drawn a free value, Config.floatSeen or Config.unreceivedBits
  (notes/assumptions/4.md). -/
  draws     : Nat
  deriving DecidableEq, Repr

/-- One line of the host's script (R72), and the one-tick presentation that the block also allows (R172). -/
inductive HostLine where
  /-- An `INIT` or `WRITE` line: presented and held until accepted (R72, R102). -/
  | hold (c : HostCmd)
  /-- A command on the port for one tick only, dropped or changed after it whether accepted or not (R172, U18). -/
  | present (c : HostCmd)
  /-- `WAIT`: no command until busy = 0. -/
  | wait
  /-- `TICK n`: no command for n ticks. -/
  | idle (n : Nat)
  /-- `RESET`: a pulse of rst_n between two ticks (R160). -/
  | reset
  deriving DecidableEq, Repr

/-- The state of the machine. -/
structure State where
  /-- The platform's parameters (R6); no step writes them. -/
  cfg  : Config
  /-- The block (R11). -/
  blk  : Block
  /-- The observer (R52). -/
  obs  : Observer
  /-- The host's script, next line first; when it is empty the host presents nothing (R118). -/
  host : List HostLine
  /-- The host went past an INIT or WRITE line that was never accepted (R72, in FAULTED, on the way to a RESET line): what
  R119's "every command of the script has been accepted" needs to know of the lines already gone
  (notes/assumptions/19.md). -/
  skipped : Bool
  deriving DecidableEq, Repr

/-- A stop of the machine. There is none: "Nothing in the block is stuck" (93_implementation_defined.md), and the four
fail-fast errors of 60_exceptions.md are entries into the FAULTED mode, next states (R136). The type is empty, so that
no meaning can stop; raised by nothing. -/
inductive Fault where
  deriving DecidableEq, Repr

/-- Why the model gives no next state. -/
inductive Refusal where
  /-- An instruction whose meaning is not written yet; raised only by an arm of exec. Safe. -/
  | notModelled (mnemonic : String)
  /-- The next host line is no command that the port can carry (R24, R68, U11: "no port reaches them"), so the model has
  no such input; raised by step alone, for a line the decoder refuses. Safe: the host cannot do this to the block. -/
  | notPresentable (why : Reject)
  deriving DecidableEq, Repr

/-- The registers after reset (R32). -/
def Block.reset (cfg : Config) : Block :=
  { busInit := false, csInit := List.replicate cfg.nCs false, faultCause := .noFault, phase := .idle, shReg := 0#24,
    bitCnt := 0#5, selReg := 0, sclkReg := true }

/-- The observer at the start of a run: DELIVERED is empty (R52); the source gives DEV_SR and DEV_CNT no initial value
and the model takes 0 (DESIGN CHOICE, notes/assumptions/5.md). -/
def Observer.start (cfg : Config) : Observer :=
  { devs := List.replicate cfg.nCs { sr := 0#24, cnt := 0 }, delivered := [], draws := 0 }

/-- The machine right after reset, on a platform and with a script (R32, R163). -/
def State.start (cfg : Config) (host : List HostLine) : State :=
  { cfg := cfg, blk := Block.reset cfg, obs := Observer.start cfg, host := host, skipped := false }

/-- The machine right after reset, on the platform of the test vectors, the host presenting nothing. -/
def State.reset : State := State.start Config.standard []

end Sys2Proof.Machine
end

