-- ==== Sys2Proof/Machine/Flags.lean ====
section
/-! DEFINITION. The status port: pure functions of the registers, none stored (R22, R25), the register codes that it
shows (R13, R137), and the life-cycle modes, which are names for conditions on the registers (R146). -/

namespace Sys2Proof.Machine

/-- The 2-bit code of PHASE (R11, R13). -/
def Phase.code : Phase → BitVec 2
  | .idle => 0#2
  | .selected => 1#2
  | .transmitting => 2#2

/-- The 3-bit cause code (R137). -/
def Cause.code : Cause → BitVec 3
  | .noFault => 0#3
  | .invalidOpcode => 1#3
  | .busUninit => 2#3
  | .selUninit => 3#3
  | .doubleInit => 4#3

/-- `busy = (PHASE != IDLE)` (R22). -/
def Block.busy (b : Block) : Bool := decide (b.phase ≠ .idle)

/-- `fault = (FAULT_CAUSE != 0)` (R22). -/
def Block.fault (b : Block) : Bool := decide (b.faultCause ≠ .noFault)

/-- `cmd_ready = (PHASE == IDLE) and (FAULT_CAUSE == 0)` (R22). -/
def Block.cmdReady (b : Block) : Bool := decide (b.phase = .idle) && decide (b.faultCause = .noFault)

/-- `fault_cause[2:0] = FAULT_CAUSE` (R25). -/
def Block.faultCode (b : Block) : BitVec 3 := b.faultCause.code

/-- The three modes (R146). -/
inductive Mode where
  | uninit
  | ready
  | faulted
  deriving DecidableEq, Repr

/-- The mode the registers are in (R146). -/
def Block.mode (b : Block) : Mode :=
  if b.faultCause ≠ .noFault then .faulted else if b.busInit then .ready else .uninit

end Sys2Proof.Machine
end

