-- ==== Sys2Proof/Machine/Pins.lean ====
section
/-! DEFINITION. The pins, pure functions of the registers (R26, R27, R28). A pin has three values: an undriven pin has
no level (R30), and nothing here reads one as 0 or 1. There is no data-in pin (R29). -/

namespace Sys2Proof.Machine

/-- A pin value: 0, 1, or not driven. -/
inductive Pin where
  | lo
  | hi
  | z
  deriving DecidableEq, Repr

/-- The pin that shows one bit. -/
def Pin.ofBool : Bool → Pin
  | true => .hi
  | false => .lo

/-- `cs_n[i]` (R26). -/
def Block.csN (b : Block) (i : Nat) : Pin :=
  if b.csInit.getD i false = false then .z
  else if b.phase ≠ .idle ∧ b.selReg = i then .lo
  else .hi

/-- `sclk` (R27). -/
def Block.sclk (b : Block) : Pin := if b.busInit then Pin.ofBool b.sclkReg else .z

/-- `mosi`, SHREG's top bit (R28). -/
def Block.mosi (b : Block) : Pin := if b.busInit then Pin.ofBool b.shReg.msb else .z

/-- The three pins that the device on one line sees. -/
structure LinePins where
  cs   : Pin
  sclk : Pin
  mosi : Pin
  deriving DecidableEq, Repr

/-- What the device on line i sees of the block. -/
def Block.linePins (b : Block) (i : Nat) : LinePins := { cs := b.csN i, sclk := b.sclk, mosi := b.mosi }

end Sys2Proof.Machine
end

