-- ==== Sys2Proof/Machine/Observer.lean ====
section
/-! DEFINITION. The observer's step (R52, R53): what the devices make of the pin values before and after a tick, or
before and after a pulse of reset (R162). It reads the pins and constrains the block in no way. -/

namespace Sys2Proof.Machine

/-- What one step leaves the observer of one line with. -/
structure Seen where
  dev    : Device
  record : Option Deliver
  /-- The free value was drawn. -/
  drew   : Bool
  deriving DecidableEq, Repr

/-- Nothing happened on the line. -/
def Seen.quiet (d : Device) : Seen := { dev := d, record := none, drew := false }

/-- The device's input is undefined: everything the observer holds of the line is a free value (R53, R162). -/
def Seen.undefined (draw i : Nat) : Seen :=
  let u := Config.floatSeen draw i
  { dev := { sr := u.sr, cnt := u.cnt }, record := u.record.map fun r => { line := i, bits := r.1, count := r.2 },
    drew := true }

/-- The bits of a record of n sampling edges (R162): the low n bits are the n that the device sampled, newest in bit 0, and
the bits above them are `free`'s. With 24 edges or more every bit was sampled (R52). -/
def receivedBits (n : Nat) (sr free : Frame) : Frame := (free <<< n) ||| (sr &&& (BitVec.allOnes 24 >>> (24 - n)))

/-- Reset cuts the frame of a line that then reads as high: the record shows what the device received, and of the rest a
free value (R162). -/
def Seen.cut (draw i : Nat) (d : Device) : Seen :=
  { dev := d,
    record := some { line := i, bits := receivedBits d.cnt d.sr (Config.unreceivedBits draw i), count := d.cnt },
    drew := decide (d.cnt < 24) }

/-- The level of its select input as the device on line i reads it: an undriven line with a pull-up reads as high
(R162), an undriven line without one has no level. -/
def selectLevel (cfg : Config) (i : Nat) (p : Pin) : Pin := if p = .z ∧ cfg.pulledUp i = true then .hi else p

/-- A sampling edge: the bit enters DEV_SR at bit 0 and DEV_CNT counts it (R53). -/
def Device.sample (d : Device) (bit : Bool) : Device :=
  { sr := (d.sr <<< 1) ||| (BitVec.ofBool bit).setWidth 24, cnt := d.cnt + 1 }

/-- While the line is low, a tick is a sampling edge when the clock falls in it (R53); an undriven clock or, at the
edge, an undriven data pin leaves the step undefined. -/
def observeLow (draw i : Nat) (p q : LinePins) (d : Device) : Seen :=
  match p.sclk, q.sclk with
  | .hi, .lo =>
    match q.mosi with
    | .hi => Seen.quiet (d.sample true)
    | .lo => Seen.quiet (d.sample false)
    | .z => Seen.undefined draw i
  | .hi, .hi => Seen.quiet d
  | .lo, .hi => Seen.quiet d
  | .lo, .lo => Seen.quiet d
  | .z, _ => Seen.undefined draw i
  | .hi, .z => Seen.undefined draw i
  | .lo, .z => Seen.undefined draw i

/-- The step for the device on line i, from the pin values `p` before to the pin values `q` after (R53): select, sampling
edge, release; a low line that becomes undriven is R162's case, with a pull-up or with nothing pulling it. -/
def observeLine (cfg : Config) (draw i : Nat) (p q : LinePins) (d : Device) : Seen :=
  match selectLevel cfg i p.cs, selectLevel cfg i q.cs with
  | .hi, .lo => Seen.quiet { d with cnt := 0 }
  | .lo, .lo => observeLow draw i p q d
  | .lo, .hi =>
    if q.cs = .z then Seen.cut draw i d
    else { dev := d, record := some { line := i, bits := d.sr, count := d.cnt }, drew := false }
  | .lo, .z => Seen.undefined draw i
  | .z, .lo => Seen.undefined draw i
  | .hi, .hi => Seen.quiet d
  | .hi, .z => Seen.quiet d
  | .z, .hi => Seen.quiet d
  | .z, .z => Seen.quiet d

/-- The step on every line: those of CS_CFG are observed (R52, R53). -/
def observeLines (cfg : Config) (b b' : Block) (o : Observer) : List Seen :=
  o.devs.mapIdx fun i d =>
    if cfg.hasLine i then observeLine cfg o.draws i (b.linePins i) (b'.linePins i) d else Seen.quiet d

/-- The observer after the block has gone from `b` to `b'`: the records of the step are appended, in the order of the
lines (R53). -/
def observe (cfg : Config) (b b' : Block) (o : Observer) : Observer :=
  let seen := observeLines cfg b b' o
  { devs := seen.map (·.dev), delivered := o.delivered ++ seen.filterMap (·.record),
    draws := if seen.any (·.drew) then o.draws + 1 else o.draws }

end Sys2Proof.Machine
end

