-- ==== Sys2Proof/Machine/Operands.lean ====
section
/-! DEFINITION. The operands of the two operations: the port values each instruction puts on the command port, and
the test of the select operand against the configured lines. -/

namespace Sys2Proof.Machine

/-- What INIT puts on the port; the ports it ignores are zero (R70, U19). -/
def initPorts : Ports := { kind := false, opcode := 0#4, data := 0#16, sel := 0 }

/-- What `WRITE op, data, sel` puts on the port (R70). -/
def writePorts (op : Opcode) (data : Data) (sel : Nat) : Ports :=
  { kind := true, opcode := op, data := data, sel := sel }

/-- `sel` names a line that INIT has configured: `sel < N_CS` and `CS_INIT[sel] = 1` (R105, R133). -/
def Block.lineReady (cfg : Config) (b : Block) (sel : Nat) : Bool := decide (sel < cfg.nCs) && b.csInit.getD sel false

end Sys2Proof.Machine
end

