-- ==== Sys2Proof/Machine/Ops.lean ====
section
/-! DEFINITION. The shared operations: fault entry and the way out of it, INIT, WRITE, the sequencer, and the step
function `Tick` with the observer beside it. The block has no memory and reads none (R40). -/

namespace Sys2Proof.Machine

/-- Fault entry, `raise X` (R136): FAULT_CAUSE takes the cause and every other register keeps its value. -/
def Block.raise (b : Block) (x : Cause) : Block := { b with faultCause := x }

/-- The way out of a fault, and the only one (R140): hardware reset, which puts every register at its reset value
(R32, R160), whatever the block was doing. The pins go to Z with it and the devices see that (R161, R162); the devices
and the host keep what they hold. -/
def State.resetPulse (s : State) : State :=
  { s with blk := Block.reset s.cfg, obs := observe s.cfg s.blk (Block.reset s.cfg) s.obs }

/-- `DoInit` (R104). -/
def Block.doInit (cfg : Config) (b : Block) : Block :=
  if b.busInit = true then b.raise .doubleInit
  else { b with busInit := true, csInit := cfg.csMask, sclkReg := true, shReg := 0#24 }

/-- `StartWrite` (R106). -/
def Block.startWrite (b : Block) (op : Opcode) (data : Data) (sel : Nat) : Block :=
  { b with shReg := frame op data, bitCnt := 24#5, selReg := sel, phase := .selected }

/-- `DoWrite`: the checks, in this order, the first that fails deciding the fault (R105, R138). -/
def Block.doWrite (cfg : Config) (b : Block) (op : Opcode) (data : Data) (sel : Nat) : Block :=
  if validOpcode op = false then b.raise .invalidOpcode
  else if b.busInit = false then b.raise .busUninit
  else if b.lineReady cfg sel = false then b.raise .selUninit
  else b.startWrite op data sel

/-- `Accept`: dispatch of an accepted command (R103). -/
def Block.accept (cfg : Config) (b : Block) (c : Ports) : Block :=
  if c.kind = false then b.doInit cfg else b.doWrite cfg c.opcode c.data c.sel

/-- TRANSMITTING: a rising tick (R108), a falling tick (R109) or the release of the line (R110). -/
def Block.transmit (b : Block) : Block :=
  if b.sclkReg = false then { b with sclkReg := true, shReg := b.shReg <<< 1, bitCnt := b.bitCnt - 1#5 }
  else if b.bitCnt ≠ 0#5 then { b with sclkReg := false }
  else { b with phase := .idle }

/-- `Tick` (R101): `c` is the command on the port in this tick, if there is one. -/
def Block.tick (cfg : Config) (b : Block) (c : Option Ports) : Block :=
  if b.faultCause ≠ .noFault then b
  else match b.phase with
    | .idle =>
      match c with
      | none => b
      | some p => b.accept cfg p
    | .selected => { b with phase := .transmitting, sclkReg := false }
    | .transmitting => b.transmit

/-- One tick of the machine: the block steps, and the observer sees the pins before and after. -/
def State.tick (s : State) (c : Option Ports) : State :=
  { s with blk := s.blk.tick s.cfg c, obs := observe s.cfg s.blk (s.blk.tick s.cfg c) s.obs }

/-- Several ticks: one entry of the list for what is on the command port in each (R118). -/
def State.ticks (s : State) : List (Option Ports) → State
  | [] => s
  | c :: cs => (s.tick c).ticks cs

/-- The meaning shared by every WRITE: one tick with `WRITE op, data, sel` on the command port. The block accepts it in
that tick exactly when `cmd_ready` is 1, and otherwise goes on with what it was doing (R102). -/
def sendWrite (op : Opcode) (data : Data) (sel : Nat) (s : State) : Host.Outcome State Fault Refusal :=
  .next (s.tick (some (writePorts op data sel)))

end Sys2Proof.Machine
end

