-- ==== Sys2Proof/Machine/Catalog.lean ====
section
/-! DEFINITION. The catalog's eleven commands (40_command_catalog.md). To the block each is WRITE with the command's
opcode and nothing more (R93): the data is sent as given, reads capture nothing (R56), and the two software resets
reset the DAC, not the block. -/

namespace Sys2Proof.Machine

/-- NOP, opcode 0x0: a frame like any other, not elided (R81). -/
def execNop (data : Data) (sel : Nat) (s : State) : Host.Outcome State Fault Refusal := sendWrite 0x0#4 data sel s

/-- WRITE_TO_INPUT, opcode 0x1 (R82). -/
def execWriteToInput (data : Data) (sel : Nat) (s : State) : Host.Outcome State Fault Refusal :=
  sendWrite 0x1#4 data sel s

/-- UPDATE_DAC, opcode 0x2 (R83). -/
def execUpdateDac (data : Data) (sel : Nat) (s : State) : Host.Outcome State Fault Refusal :=
  sendWrite 0x2#4 data sel s

/-- WRITE_AND_UPDATE, opcode 0x3 (R84). -/
def execWriteAndUpdate (data : Data) (sel : Nat) (s : State) : Host.Outcome State Fault Refusal :=
  sendWrite 0x3#4 data sel s

/-- WRITE_CONTROL, opcode 0x4: the data is not forced to CONTROL_REG_VAL and not checked (R85). -/
def execWriteControl (data : Data) (sel : Nat) (s : State) : Host.Outcome State Fault Refusal :=
  sendWrite 0x4#4 data sel s

/-- SOFTWARE_DATA_RESET, opcode 0x7 (R86). -/
def execSoftwareDataReset (data : Data) (sel : Nat) (s : State) : Host.Outcome State Fault Refusal :=
  sendWrite 0x7#4 data sel s

/-- DISABLE_DAISY_CHAIN, opcode 0x9 (R87). -/
def execDisableDaisyChain (data : Data) (sel : Nat) (s : State) : Host.Outcome State Fault Refusal :=
  sendWrite 0x9#4 data sel s

/-- READ_INPUT, opcode 0xA: transmitted, nothing is read (R88, R56). -/
def execReadInput (data : Data) (sel : Nat) (s : State) : Host.Outcome State Fault Refusal :=
  sendWrite 0xA#4 data sel s

/-- READ_DAC, opcode 0xB: transmitted, nothing is read (R89, R56). -/
def execReadDac (data : Data) (sel : Nat) (s : State) : Host.Outcome State Fault Refusal :=
  sendWrite 0xB#4 data sel s

/-- READ_CONTROL, opcode 0xC: transmitted, nothing is read (R90, R56). -/
def execReadControl (data : Data) (sel : Nat) (s : State) : Host.Outcome State Fault Refusal :=
  sendWrite 0xC#4 data sel s

/-- SOFTWARE_FULL_RESET, opcode 0xF (R91). -/
def execSoftwareFullReset (data : Data) (sel : Nat) (s : State) : Host.Outcome State Fault Refusal :=
  sendWrite 0xF#4 data sel s

end Sys2Proof.Machine
end

