-- ==== Sys2Proof/Machine/Driver.lean ====
section
/-! DEFINITION. The host's two operations (41_transaction_driver.md): INIT, and WRITE with any of the sixteen opcode
values. Each is one tick with that command on the command port (R101 to R103). -/

namespace Sys2Proof.Machine

/-- INIT (R104). -/
def execInit (s : State) : Host.Outcome State Fault Refusal := .next (s.tick (some initPorts))

/-- WRITE with its opcode as four plain bits; a reserved one is the InvalidOpcode fault (R105, R71). -/
def execWrite (op : Opcode) (data : Data) (sel : Nat) (s : State) : Host.Outcome State Fault Refusal :=
  sendWrite op data sel s

end Sys2Proof.Machine
end

