-- ==== Sys2Proof/Machine/Dispatch.lean ====
section
/-! DEFINITION. exec: one arm for each constructor of Instr, each a direct call of that instruction's meaning. -/

namespace Sys2Proof.Machine

def exec (i : Instr) (s : State) : Host.Outcome State Fault Refusal :=
  match i with
  | .nop data sel => Sys2Proof.Machine.execNop data sel s
  | .writeToInput data sel => Sys2Proof.Machine.execWriteToInput data sel s
  | .updateDac data sel => Sys2Proof.Machine.execUpdateDac data sel s
  | .writeAndUpdate data sel => Sys2Proof.Machine.execWriteAndUpdate data sel s
  | .writeControl data sel => Sys2Proof.Machine.execWriteControl data sel s
  | .softwareDataReset data sel => Sys2Proof.Machine.execSoftwareDataReset data sel s
  | .disableDaisyChain data sel => Sys2Proof.Machine.execDisableDaisyChain data sel s
  | .readInput data sel => Sys2Proof.Machine.execReadInput data sel s
  | .readDac data sel => Sys2Proof.Machine.execReadDac data sel s
  | .readControl data sel => Sys2Proof.Machine.execReadControl data sel s
  | .softwareFullReset data sel => Sys2Proof.Machine.execSoftwareFullReset data sel s
  | .init => Sys2Proof.Machine.execInit s
  | .write opcode data sel => Sys2Proof.Machine.execWrite opcode data sel s

end Sys2Proof.Machine
end

