-- ==== Sys2Proof/Machine/HostPort.lean ====
section
/-! DEFINITION. The host as an agent: how a line of its script becomes what is on the command port in a tick (R72,
R102, R172), and which lines take no tick. -/

namespace Sys2Proof.Machine

/-- What the host does next. -/
inductive Fetched where
  /-- A line that takes no tick has been done, and the next state is this. -/
  | moved (s : State)
  /-- A tick with no command on the port, from this state. -/
  | quiet (s : State)
  /-- A tick with this command on the port, from this state. -/
  | command (c : HostCmd) (s : State)
  deriving DecidableEq, Repr

/-- The line is a RESET. -/
def HostLine.isReset : HostLine → Bool
  | .reset => true
  | .hold _ => false
  | .present _ => false
  | .wait => false
  | .idle _ => false

/-- The line is one that holds or presents a command. -/
def HostLine.isCommand : HostLine → Bool
  | .hold _ => true
  | .present _ => true
  | .reset => false
  | .wait => false
  | .idle _ => false

/-- The host with the lines `rest` left. -/
def State.withHost (s : State) (rest : List HostLine) : State := { s with host := rest }

/-- The host goes on at `rest`, past a command line that was never accepted (R72, R119). -/
def State.skipTo (s : State) (rest : List HostLine) : State := { s with host := rest, skipped := true }

/-- The next line of the script (R72). A held command stays in the script until the tick in which it is accepted
(R102); in FAULTED it never is, and the script runner skips to the next RESET line if there is one. `WAIT` takes a tick
while busy is 1 and none otherwise, `TICK n` takes n, `RESET` takes none. With no line left the host presents nothing. -/
def fetch (s : State) : Fetched :=
  match s.host with
  | [] => .quiet s
  | .hold c :: rest =>
    if s.blk.fault && rest.any HostLine.isReset then .moved (s.skipTo (rest.dropWhile fun l => !l.isReset))
    else if s.blk.cmdReady then .command c (s.withHost rest)
    else .command c s
  | .present c :: rest => .command c (s.withHost rest)
  | .wait :: rest => if s.blk.busy then .quiet s else .moved (s.withHost rest)
  | .idle 0 :: rest => .moved (s.withHost rest)
  | .idle (n + 1) :: rest => .quiet (s.withHost (.idle n :: rest))
  | .reset :: rest => .moved (s.withHost rest).resetPulse

end Sys2Proof.Machine
end

