-- ==== Sys2Proof/Machine/Step.lean ====
section
/-! DEFINITION. One step of the machine: one tick of the block with what the host presents in it, or one host line that
takes no tick (R72, R101, R160). -/

namespace Sys2Proof.Machine

/-- The step. A command the host presents is decoded and executed; executing it is the tick in which it stands on the
command port. -/
def step (s : State) : Host.Outcome State Fault Refusal :=
  match fetch s with
  | .moved s' => .next s'
  | .quiet s' => .next (s'.tick none)
  | .command c s' =>
    match decode s'.cfg.selW c with
    | .ok i => exec i s'
    | .error why => .refused (.notPresentable why)

/-- The state with an opcode-table word as the command the host presents in the very next tick. -/
def State.withFetchWord (s : State) (nbits w : Nat) : State := { s with host := .present (tableCmd nbits w) :: s.host }

end Sys2Proof.Machine
end

