-- ==== Sys2Proof/Safety.lean ====
section
/-! DEFINITION. The terms the claims use: the invariants of every reachable state (R33), what a frame of this block is
(R63, R68), how the wire and the observer agree in mid-transaction, and when a run is over and ended well (R119, R141). -/

namespace Sys2Proof.Machine

/-- The catalog: each command's constructor with its opcode, in the order of the table of R66. -/
def catalogRows : List ((Data → Nat → Instr) × Opcode) :=
  [(.nop, 0x0#4), (.writeToInput, 0x1#4), (.updateDac, 0x2#4), (.writeAndUpdate, 0x3#4), (.writeControl, 0x4#4),
   (.softwareDataReset, 0x7#4), (.disableDaisyChain, 0x9#4), (.readInput, 0xA#4), (.readDac, 0xB#4),
   (.readControl, 0xC#4), (.softwareFullReset, 0xF#4)]

/-- A 24-bit value the block can send: reserved bits zero, opcode in the catalog (R63 item 4, R68, R69). -/
def ourFrame (f : Frame) : Prop := frameRsvd f = 0#4 ∧ validOpcode (frameOpcode f) = true

/-- The invariants of the registers (R33 items 1 to 4, 6 and 7, and SELREG's width of R11). The last clause of
`transmitting` is not in R33: it is what makes item 4 inductive. -/
structure Block.Inv (cfg : Config) (b : Block) : Prop where
  /-- Item 1. -/
  active : b.phase ≠ .idle →
    b.busInit = true ∧ b.faultCause = .noFault ∧ b.selReg < cfg.nCs ∧ b.csInit.getD b.selReg false = true
  /-- Item 2. -/
  idle : b.phase = .idle → b.shReg = 0#24 ∧ b.bitCnt = 0#5 ∧ b.sclkReg = true
  /-- Item 3. -/
  selected : b.phase = .selected → b.bitCnt = 24#5 ∧ b.sclkReg = true ∧ ourFrame b.shReg
  /-- Item 4. -/
  transmitting : b.phase = .transmitting →
    b.bitCnt.toNat ≤ 24 ∧ (∃ f, ourFrame f ∧ b.shReg = f <<< (24 - b.bitCnt.toNat)) ∧
    (b.bitCnt = 24#5 → b.sclkReg = false) ∧ (b.sclkReg = false → b.bitCnt ≠ 0#5)
  /-- Item 6. -/
  faulted : b.faultCause ≠ .noFault → b.phase = .idle
  /-- Item 7. -/
  lines : (b.busInit = false ∧ b.csInit = List.replicate cfg.nCs false) ∨ (b.busInit = true ∧ b.csInit = cfg.csMask)
  /-- SELREG fits its SELW bits (R11). -/
  selWidth : b.selReg < 2 ^ cfg.selW

/-- The invariant of the machine: the registers' invariant, and one observed device for each line. -/
structure State.Inv (s : State) : Prop where
  block : s.blk.Inv s.cfg
  devs  : s.obs.devs.length = s.cfg.nCs

/-- In mid-transaction the block is sending the frame `f` and the device on the selected line has so far received f's
leading bits: SHREG holds the bits still to come, DEV_CNT counts the sampling edges so far, and the low DEV_CNT bits of
DEV_SR are the leading DEV_CNT bits of f (R12, R33 item 4, R52, R111). -/
def State.carries (s : State) (f : Frame) : Prop :=
  ∃ d, s.obs.devs[s.blk.selReg]? = some d ∧
    s.blk.shReg = f <<< (24 - s.blk.bitCnt.toNat) ∧
    d.cnt = (24 - s.blk.bitCnt.toNat) + (if s.blk.sclkReg then 0 else 1) ∧
    (∀ j, j < d.cnt → d.sr.getLsbD j = f.getLsbD (24 - d.cnt + j))

/-- Every transaction in progress is sending a frame of this block, and the device on the line has received its
beginning. -/
def State.wireInv (s : State) : Prop := s.blk.phase ≠ .idle → ∃ f, ourFrame f ∧ s.carries f

/-- Every record is a whole frame of this block on a line of CS_CFG. -/
def State.wholeFrames (s : State) : Prop :=
  ∀ r ∈ s.obs.delivered, r.count = 24 ∧ ourFrame r.bits ∧ s.cfg.hasLine r.line = true

/-- The next step is a pulse of reset that would cut a frame short (R162). -/
def State.cutsFrame (s : State) : Prop := s.host.head? = some .reset ∧ s.blk.busy = true

/-- No fault since reset (R141). -/
def State.noFault (s : State) : Bool := !s.blk.fault

/-- Every command of the script has been accepted (R119): none is left, and none was skipped in FAULTED (R72). DESIGN
CHOICE, notes/assumptions/19.md: a one-tick `present` command that the block did not accept and the host dropped (R172,
U18) counts as done, since the host withdrew it; R119 does not say. -/
def State.allAccepted (s : State) : Bool := !s.skipped && s.host.all fun l => !l.isCommand

/-- The run of the script is over (R119): PHASE = IDLE, and every command accepted, or FAULTED with no RESET line left. In
FAULTED the run ends only when no RESET line is left (90_conflicts.md C10; DEDUCED, notes/assumptions/19.md). What counts as
accepted is allAccepted's to say (DESIGN CHOICE, notes/assumptions/19.md). -/
def State.over (s : State) : Bool :=
  !s.blk.busy && (if s.blk.fault then s.host.all fun l => !l.isReset else s.allAccepted)

/-- The run ended well (R119). -/
def State.final (s : State) : Bool := s.over && s.noFault

/-- A state that some run reaches, on some platform and with some script, from reset (R163). -/
def State.reachable (s : State) : Prop :=
  ∃ (cfg : Config) (host : List HostLine) (k : Nat), Sys2Proof.core.run k (State.start cfg host) = .next s

end Sys2Proof.Machine
end

