-- ==== Sys2Proof/Certificates/Slice0/Obligations.lean ====
section
/-! DEFINITION. The statements for the provers, in the order of OBLIGATIONS.json. Each docstring says which rule it
formalises. A state's command port is ready when `cmdReady` is true; the mode READY of R146 is then `busInit`. -/

open Sys2Proof Sys2Proof.Machine

/-! ### The frame and the encodings (30_encoding.md) -/

/-- Decode and encode agree: every instruction that the port can carry, with every operand at every value, is what the
decoder reads from its encoding (R62, R66, R69, R70). -/
def Obligations.DecodeInvertsEncode : Prop :=
  ∀ (selW : Nat) (i : Instr), i.wellFormed selW = true → decode selW (encode i) = .ok i

/-- The other direction: a frame that decodes has one meaning, and encoding that meaning gives the frame back (R63, R69). -/
def Obligations.EncodeInvertsDecodedFrame : Prop :=
  ∀ (selW : Nat) (f : Frame) (sel : Nat) (i : Instr), decode selW (.frame24 f sel) = .ok i → encode i = .frame24 f sel

/-- Frame decoding (R69, whose sentence on assembled frames the spec derives from R62 and R66): total, and right on every
assembled frame of the catalog. R69 has one outcome NotOurs; that it is split by its reason, reserved bits or reserved
opcode, is the model's own choice (notes/assumptions/20.md). -/
def Obligations.FrameDecodingHasThreeOutcomes : Prop :=
  ∀ (f : Frame) (sel : Nat),
    (f.extractLsb' 16 4 ≠ 0#4 → decodeFrame f sel = .error .reservedBits) ∧
    (f.extractLsb' 16 4 = 0#4 → validOpcode (f.extractLsb' 20 4) = false →
      decodeFrame f sel = .error .reservedOpcode) ∧
    (f.extractLsb' 16 4 = 0#4 → ∀ row ∈ catalogRows, f.extractLsb' 20 4 = row.2 →
      decodeFrame f sel = .ok (row.1 (f.extractLsb' 0 16) sel)) ∧
    (f.extractLsb' 16 4 = 0#4 → validOpcode (f.extractLsb' 20 4) = true →
      ∃ row ∈ catalogRows, f.extractLsb' 20 4 = row.2) ∧
    (∀ row ∈ catalogRows, ∀ data : Data, decodeFrame (frame row.2 data) sel = .ok (row.1 data sel))

/-- R62: the two forms of frame assembly, and its worked examples. -/
def Obligations.FrameAssembly : Prop :=
  (∀ (op : Opcode) (data : Data),
    frame op data = op ++ 0#4 ++ data ∧ frame op data = (op.setWidth 24 <<< 20) ||| data.setWidth 24) ∧
  frame 0x4#4 0x0048#16 = 0x400048#24 ∧ frame 0xF#4 0x0000#16 = 0xF00000#24

/-- The laws of frame assembly (R63, without its counts): the OR is a sum; the fields come back; it is injective; its
image is the values with bits 19:16 zero; a shift drops bit 23 and brings in 0; 24 shifts give 0. -/
def Obligations.FrameLaws : Prop :=
  (∀ (op : Opcode) (data : Data),
    (frame op data).toNat = op.toNat * 2 ^ 20 + data.toNat ∧
    (frame op data).extractLsb' 20 4 = op ∧ (frame op data).extractLsb' 16 4 = 0#4 ∧
    (frame op data).extractLsb' 0 16 = data) ∧
  (∀ (op op' : Opcode) (data data' : Data), frame op data = frame op' data' → op = op' ∧ data = data') ∧
  (∀ f : Frame, (∃ op data, frame op data = f) ↔ f.extractLsb' 16 4 = 0#4) ∧
  (∀ f : Frame, (f <<< 1).getLsbD 0 = false ∧ (∀ i, i < 23 → (f <<< 1).getLsbD (i + 1) = f.getLsbD i)) ∧
  (∀ f : Frame, (fun v : Frame => v <<< 1)^[24] f = 0#24)

/-- R66: ValidOpcode is the set of the eleven opcodes of the table and the mask 0x9E9F, the table gives each catalog
command its opcode, command by command, and no two commands share one. -/
def Obligations.OpcodeMap : Prop :=
  (∀ op : Opcode,
    (validOpcode op = true ↔ op ∈ [0x0#4, 0x1#4, 0x2#4, 0x3#4, 0x4#4, 0x7#4, 0x9#4, 0xA#4, 0xB#4, 0xC#4, 0xF#4]) ∧
    validOpcode op = (0x9E9F#16).getLsbD op.toNat ∧
    (validOpcode op = true ↔ ∃ row ∈ catalogRows, row.2 = op)) ∧
  (catalogRows.map Prod.snd).Nodup ∧
  catalogRows.map Prod.snd = [0x0#4, 0x1#4, 0x2#4, 0x3#4, 0x4#4, 0x7#4, 0x9#4, 0xA#4, 0xB#4, 0xC#4, 0xF#4] ∧
  (∀ data sel, catalogRows.map (fun row => row.1 data sel) =
    [.nop data sel, .writeToInput data sel, .updateDac data sel, .writeAndUpdate data sel, .writeControl data sel,
     .softwareDataReset data sel, .disableDaisyChain data sel, .readInput data sel, .readDac data sel,
     .readControl data sel, .softwareFullReset data sel])

/-- A few words of the test vectors, written out, and what they decode to (R81 to R91, R67, R68, R104, R105); a sanity
statement. Where the other ports stand in a table word is the model's choice (notes/assumptions/7.md). -/
def Obligations.CatalogWordsDecode : Prop :=
  decodeTableWord 24 0x00A5A5 = some (.nop 0xA5A5#16 0) ∧
  decodeTableWord 24 0x101234 = some (.writeToInput 0x1234#16 0) ∧
  decodeTableWord 24 0x308000 = some (.writeAndUpdate 0x8000#16 0) ∧
  decodeTableWord 24 0x400048 = some (.writeControl controlRegVal 0) ∧
  decodeTableWord 24 0x900001 = some (.disableDaisyChain 0x0001#16 0) ∧
  decodeTableWord 24 0xF0A5A5 = some (.softwareFullReset 0xA5A5#16 0) ∧
  decodeTableWord 24 0x500000 = none ∧ decodeTableWord 24 0x410048 = none ∧
  decodeTableWord 8 0 = some .init ∧ decodeTableWord 8 1 = some (.write 0x0#4 0x0000#16 0)

/-- The three bytes of a frame, most significant first, their example, and that the decoder reads a frame from its bytes in
that order (R64). -/
def Obligations.FrameBytesInWireOrder : Prop :=
  (∀ (op : Opcode) (data : Data),
    frameBytes (frame op data) = [op ++ 0#4, data.extractLsb' 8 8, data.extractLsb' 0 8] ∧
    (op ++ 0#4).toNat = op.toNat * 16) ∧
  frameBytes 0x400048#24 = [0x40#8, 0x00#8, 0x48#8] ∧
  (∀ (f : Frame) (sel : Nat) (rest : List Byte) (i : Instr), decodeFrame f sel = .ok i →
    decodeBytes sel (frameBytes f ++ rest) = .ok (i, rest))

/-- The port's operands (R70): kind 0 is INIT whatever the other ports hold, kind 1 is WRITE with all sixteen opcodes. -/
def Obligations.PortsNameTheirOperation : Prop :=
  ∀ (selW : Nat) (op : Opcode) (data : Data) (sel : Nat), sel < 2 ^ selW →
    decode selW (.hostcmd { kind := false, opcode := op, data := data, sel := sel }) = .ok .init ∧
    decode selW (.hostcmd { kind := true, opcode := op, data := data, sel := sel }) = .ok (.write op data sel)

/-! ### The step (R72, R101, R102) -/

/-- A step runs the decoded instruction: a presented command, a held command that is accepted (and leaves the script), a
held command that waits (and stays), and the word that withFetchWord places. One-tick presentations and withFetchWord are
the model's own (R172; notes/assumptions/6.md, 7.md and 13.md). -/
def Obligations.StepRunsDecodedInstruction : Prop :=
  (∀ (s : State) (c : HostCmd) (rest : List HostLine) (i : Instr), decode s.cfg.selW c = .ok i →
    (s.host = .present c :: rest → step s = exec i { s with host := rest }) ∧
    (s.host = .hold c :: rest → s.blk.cmdReady = true → step s = exec i { s with host := rest }) ∧
    (s.host = .hold c :: rest → s.blk.cmdReady = false →
      (s.blk.fault = false ∨ rest.any HostLine.isReset = false) → step s = exec i s)) ∧
  (∀ (s : State) (nbits w : Nat) (i : Instr), decode s.cfg.selW (tableCmd nbits w) = .ok i →
    step (s.withFetchWord nbits w) = exec i s)

/-- The script's other lines take the ticks that R72 gives them: WAIT, a tick while busy and none otherwise; TICK n, n
ticks; an INIT or WRITE line in FAULTED, a skip to the next RESET line, which is remembered. Three clauses are the model's
choice: that a host with no line left presents no command (R101, R118; notes/assumptions/6.md), that WAIT and TICK go their
way in FAULTED too (notes/assumptions/13.md), and that the skip is recorded in a field (notes/assumptions/19.md). -/
def Obligations.ScriptLinesTakeTheirTicks : Prop :=
  ∀ (s : State) (rest : List HostLine),
    (s.host = [] → step s = .next (s.tick none)) ∧
    (s.host = .wait :: rest → s.blk.phase ≠ .idle → step s = .next (s.tick none)) ∧
    (s.host = .wait :: rest → s.blk.phase = .idle → step s = .next { s with host := rest }) ∧
    (s.host = .idle 0 :: rest → step s = .next { s with host := rest }) ∧
    (∀ n, s.host = .idle (n + 1) :: rest →
      step s = .next (({ s with host := .idle n :: rest } : State).tick none)) ∧
    (∀ c before after, s.host = .hold c :: rest → s.blk.faultCause ≠ .noFault → rest = before ++ .reset :: after →
      HostLine.reset ∉ before →
      step s = .next { s with host := .reset :: after, skipped := true })

/-- Nothing in the block is stuck: the one thing a step refuses is a host line that no command port can carry (R24,
U11). -/
def Obligations.OnlyUnpresentableLinesAreRefused : Prop :=
  ∀ s : State,
    ((∀ c, (s.host.head? = some (.hold c) ∨ s.host.head? = some (.present c)) →
      ∃ i, decode s.cfg.selW c = .ok i) → ∃ t, step s = .next t) ∧
    (∀ r, step s = .refused r →
      ∃ c why, (s.host.head? = some (.hold c) ∨ s.host.head? = some (.present c)) ∧
        decode s.cfg.selW c = .error why ∧ r = .notPresentable why)

/-! ### INIT and WRITE accepted (41_transaction_driver.md) -/

/-- INIT on an uninitialised bus completes in its tick (R104): the four registers it writes, nothing else of the machine,
and the pins and status that follow. -/
def Obligations.InitInitialisesTheBus : Prop :=
  ∀ s : State, s.blk.cmdReady = true → s.blk.busInit = false →
    ∃ t, exec .init s = .next t ∧
      t = { s with blk := { s.blk with busInit := true, csInit := s.cfg.csMask, sclkReg := true, shReg := 0#24 } } ∧
      (∀ i, (s.cfg.hasLine i = true → t.blk.csN i = .hi) ∧ (s.cfg.hasLine i = false → t.blk.csN i = .z)) ∧
      t.blk.sclk = .hi ∧ t.blk.mosi = .lo ∧ t.blk.busy = false ∧ t.blk.fault = false ∧ t.blk.cmdReady = true

/-- R134: INIT on an initialised bus is the fault DoubleInit, cause code 4, and writes nothing but the cause. -/
def Obligations.SecondInitFaults : Prop :=
  ∀ s : State, s.blk.cmdReady = true → s.blk.busInit = true →
    exec .init s = .next { s with blk := { s.blk with faultCause := .doubleInit } } ∧ Cause.doubleInit.code = 4#3

/-- Each of the eleven catalog commands, accepted on a configured line, starts the transaction of its frame (R81 to R91,
R93, R106) and completes its tick. The frame of the instruction is whole: the four registers named are the only ones
written, the device on the line starts to count, every other device, the records, the script and the configuration stay. -/
def Obligations.CatalogCommandsStartTheirFrames : Prop :=
  ∀ row ∈ catalogRows, ∀ (data : Data) (sel : Nat) (s : State) (d : Device),
    s.Inv → s.blk.cmdReady = true → s.blk.busInit = true → s.cfg.hasLine sel = true → s.obs.devs[sel]? = some d →
    exec (row.1 data sel) s = .next
      { s with blk := { s.blk with shReg := row.2 ++ 0#4 ++ data, bitCnt := 24#5, selReg := sel, phase := .selected },
               obs := { s.obs with devs := s.obs.devs.set sel { sr := d.sr, cnt := 0 } } }

/-- R106: WRITE with any valid opcode, accepted: the registers, the pins and the status at the end of the tick, the first
bit being on mosi a full tick before the clock first falls. -/
def Obligations.WriteStartsItsTransaction : Prop :=
  ∀ (op : Opcode) (data : Data) (sel : Nat) (s : State),
    s.Inv → s.blk.cmdReady = true → s.blk.busInit = true → validOpcode op = true → s.cfg.hasLine sel = true →
    ∃ t, exec (.write op data sel) s = .next t ∧
      t.blk = { s.blk with shReg := op ++ 0#4 ++ data, bitCnt := 24#5, selReg := sel, phase := .selected } ∧
      t.cfg = s.cfg ∧ t.host = s.host ∧ t.skipped = s.skipped ∧
      t.obs.delivered = s.obs.delivered ∧ t.obs.draws = s.obs.draws ∧
      (∀ j, j ≠ sel → t.obs.devs[j]? = s.obs.devs[j]?) ∧
      s.blk.csN sel = .hi ∧ t.blk.csN sel = .lo ∧ (∀ j, j ≠ sel → t.blk.csN j = s.blk.csN j) ∧
      s.blk.sclk = .hi ∧ t.blk.sclk = .hi ∧ t.blk.mosi = Pin.ofBool ((op ++ 0#4 ++ data).getLsbD 23) ∧
      t.blk.busy = true ∧ t.blk.cmdReady = false ∧
      (∀ c, (t.tick c).blk.sclk = .lo ∧ (t.tick c).blk.mosi = t.blk.mosi)

/-- The outcome table of an accepted WRITE by V, B and S, and of an accepted INIT (R139, which the spec derives from
R105). -/
def Obligations.WriteOutcomeTable : Prop :=
  ∀ (s : State) (op : Opcode) (data : Data) (sel : Nat), s.Inv → s.blk.cmdReady = true →
    let ready : Bool := decide (sel < s.cfg.nCs) && s.blk.csInit.getD sel false
    (validOpcode op = false →
      exec (.write op data sel) s = .next { s with blk := { s.blk with faultCause := .invalidOpcode } }) ∧
    (validOpcode op = true → s.blk.busInit = false →
      exec (.write op data sel) s = .next { s with blk := { s.blk with faultCause := .busUninit } }) ∧
    (validOpcode op = true → s.blk.busInit = true → ready = false →
      exec (.write op data sel) s = .next { s with blk := { s.blk with faultCause := .selUninit } }) ∧
    (validOpcode op = true → s.blk.busInit = true → ready = true →
      ∃ t, exec (.write op data sel) s = .next t ∧ t.blk.fault = false ∧
        t.blk = { s.blk with shReg := op ++ 0#4 ++ data, bitCnt := 24#5, selReg := sel, phase := .selected }) ∧
    (ready = true → s.blk.busInit = true) ∧
    (s.blk.busInit = false → ∃ t, exec .init s = .next t ∧ t.blk.fault = false ∧ t.blk.busInit = true) ∧
    (s.blk.busInit = true →
      exec .init s = .next { s with blk := { s.blk with faultCause := .doubleInit } })

/-- The two spellings of a WRITE line are one operation (R71, R72, R93): a catalog command is WRITE with its opcode. -/
def Obligations.MnemonicAndRawFormsAgree : Prop :=
  ∀ row ∈ catalogRows, ∀ (data : Data) (sel : Nat) (s : State),
    exec (row.1 data sel) s = exec (.write row.2 data sel) s

/-! ### Faults (60_exceptions.md) -/

/-- R131: an accepted WRITE with a reserved opcode is InvalidOpcode, cause code 1, whatever BUS_INIT and the line are, and
nothing but the cause is recorded. -/
def Obligations.InvalidOpcodeFault : Prop :=
  (∀ op : Opcode, validOpcode op = false ↔ op ∈ [0x5#4, 0x6#4, 0x8#4, 0xD#4, 0xE#4]) ∧
  Cause.invalidOpcode.code = 1#3 ∧
  ∀ (op : Opcode) (data : Data) (sel : Nat) (s : State), s.blk.cmdReady = true → validOpcode op = false →
    exec (.write op data sel) s = .next { s with blk := { s.blk with faultCause := .invalidOpcode } }

/-- R132: an accepted WRITE with a valid opcode before INIT is BusUninit, cause code 2; so is every catalog command. -/
def Obligations.BusUninitFault : Prop :=
  ∀ (data : Data) (sel : Nat) (s : State), s.blk.cmdReady = true → s.blk.busInit = false →
    (∀ op, validOpcode op = true →
      exec (.write op data sel) s = .next { s with blk := { s.blk with faultCause := .busUninit } }) ∧
    (∀ row ∈ catalogRows,
      exec (row.1 data sel) s = .next { s with blk := { s.blk with faultCause := .busUninit } }) ∧
    Cause.busUninit.code = 2#3

/-- R133: an accepted WRITE with a valid opcode to an identifier that names no configured line is SelUninit, cause code 3;
so is every catalog command. -/
def Obligations.SelUninitFault : Prop :=
  ∀ (data : Data) (sel : Nat) (s : State), s.blk.cmdReady = true → s.blk.busInit = true →
    (s.cfg.nCs ≤ sel ∨ s.blk.csInit.getD sel false = false) →
    (∀ op, validOpcode op = true →
      exec (.write op data sel) s = .next { s with blk := { s.blk with faultCause := .selUninit } }) ∧
    (∀ row ∈ catalogRows,
      exec (row.1 data sel) s = .next { s with blk := { s.blk with faultCause := .selUninit } }) ∧
    Cause.selUninit.code = 3#3

/-- R136: fault entry writes FAULT_CAUSE and nothing else; the state at entry is idle; the status follows; the pins do not
move; and no later tick has any effect. -/
def Obligations.FaultEntryMovesNothingElse : Prop :=
  ∀ (s t : State) (i : Instr), s.Inv → s.blk.cmdReady = true → exec i s = .next t → t.blk.fault = true →
    (∃ x, x ≠ .noFault ∧ t = { s with blk := { s.blk with faultCause := x } } ∧ t.blk.faultCode = x.code) ∧
    (s.blk.phase = .idle ∧ s.blk.shReg = 0#24 ∧ s.blk.bitCnt = 0#5 ∧ s.blk.sclkReg = true) ∧
    t.blk.faultCode ≠ 0#3 ∧ t.blk.cmdReady = false ∧ t.blk.busy = false ∧
    (∀ j, t.blk.csN j = s.blk.csN j ∧ (t.blk.csN j = .hi ∨ t.blk.csN j = .z)) ∧
    (t.blk.sclk = s.blk.sclk ∧ (t.blk.sclk = .hi ∨ t.blk.sclk = .z)) ∧
    (t.blk.mosi = s.blk.mosi ∧ (t.blk.mosi = .lo ∨ t.blk.mosi = .z)) ∧
    (∀ ins, t.ticks ins = t)

/-- R117: in FAULTED every tick, with any command on the port, leaves the machine unchanged; the port is not ready; driven
pins are idle and the others undriven; and only a RESET line leaves the mode. -/
def Obligations.FaultedIsInert : Prop :=
  ∀ s : State, s.Inv → s.blk.faultCause ≠ .noFault →
    (∀ c, s.tick c = s) ∧ (∀ i, exec i s = .next s) ∧ s.blk.cmdReady = false ∧
    (∀ j, s.blk.csN j = if s.blk.csInit.getD j false then .hi else .z) ∧
    (s.blk.sclk = if s.blk.busInit then .hi else .z) ∧ (s.blk.mosi = if s.blk.busInit then .lo else .z) ∧
    (∀ t, step s = .next t → s.host.head? ≠ some .reset → t.blk = s.blk ∧ t.obs = s.obs)

/-- The cause codes (R137): 0 for no fault, 1 to 4 for the causes, and 5 to 7 never shown. -/
def Obligations.CauseCodes : Prop :=
  Cause.noFault.code = 0#3 ∧ Cause.invalidOpcode.code = 1#3 ∧ Cause.busUninit.code = 2#3 ∧
  Cause.selUninit.code = 3#3 ∧ Cause.doubleInit.code = 4#3 ∧
  (∀ b : Block, b.faultCode.toNat ≤ 4 ∧ (b.faultCode = 0#3 ↔ b.fault = false))

/-! ### The sequencer (R107 to R111) -/

/-- A block that is not ready does not read the port: whatever instruction is presented, the tick is the tick with no
command (R101, R102, R113). -/
def Obligations.BusyBlockIgnoresThePort : Prop :=
  ∀ (s : State) (i : Instr), s.blk.cmdReady = false → exec i s = .next (s.tick none)

/-- R107: SELECTED lasts one tick; in it the clock first falls and the device samples frame bit 23; SHREG and BITCNT (24)
stay. -/
def Obligations.SelectedTick : Prop :=
  ∀ (s : State) (d : Device) (c : Option Ports), s.Inv → s.blk.phase = .selected →
    s.obs.devs[s.blk.selReg]? = some d →
    s.tick c =
      { s with blk := { s.blk with phase := .transmitting, sclkReg := false },
               obs := { s.obs with devs := s.obs.devs.set s.blk.selReg (d.sample (s.blk.shReg.getLsbD 23)) } } ∧
    s.blk.sclk = .hi ∧ (s.tick c).blk.sclk = .lo ∧ s.blk.bitCnt = 24#5

/-- R108: a rising tick shifts SHREG, counts BITCNT down and raises the clock, and nothing else changes; after the last one
SHREG, BITCNT and mosi are 0; and mosi changes in no tick but a rising one and one that accepts a command. -/
def Obligations.RisingTick : Prop :=
  ∀ (s : State) (c : Option Ports), s.Inv →
    (s.blk.phase = .transmitting → s.blk.sclkReg = false →
      s.tick c =
        { s with blk := { s.blk with sclkReg := true, shReg := s.blk.shReg <<< 1, bitCnt := s.blk.bitCnt - 1#5 } } ∧
      s.blk.bitCnt ≠ 0#5 ∧ (s.tick c).blk.mosi = Pin.ofBool (s.blk.shReg.getLsbD 22) ∧
      (s.blk.bitCnt = 1#5 → (s.tick c).blk.shReg = 0#24 ∧ (s.tick c).blk.bitCnt = 0#5 ∧ (s.tick c).blk.mosi = .lo)) ∧
    ((s.tick c).blk.mosi ≠ s.blk.mosi →
      (s.blk.phase = .transmitting ∧ s.blk.sclkReg = false) ∨ (s.blk.cmdReady = true ∧ c ≠ none))

/-- R109: a falling tick lowers the clock and nothing else of the block changes; the device samples SHREG[23], which is
frame bit BITCNT - 1. -/
def Obligations.FallingTick : Prop :=
  ∀ (s : State) (d : Device) (c : Option Ports), s.Inv → s.blk.phase = .transmitting → s.blk.sclkReg = true →
    s.blk.bitCnt ≠ 0#5 → s.obs.devs[s.blk.selReg]? = some d →
    s.tick c =
      { s with blk := { s.blk with sclkReg := false },
               obs := { s.obs with devs := s.obs.devs.set s.blk.selReg (d.sample (s.blk.shReg.getLsbD 23)) } } ∧
    s.blk.mosi = Pin.ofBool (s.blk.shReg.getLsbD 23) ∧
    (∀ f : Frame, s.blk.shReg = f <<< (24 - s.blk.bitCnt.toNat) →
      s.blk.shReg.getLsbD 23 = f.getLsbD (s.blk.bitCnt.toNat - 1))

/-- The release (R110, R53). PHASE becomes IDLE and nothing else of the block changes; the line rises, sclk stays 1 and mosi 0;
busy falls and cmd_ready rises; the block is idle as before the WRITE. The observer appends its record (R53). -/
def Obligations.ReleaseTick : Prop :=
  ∀ (s : State) (d : Device) (c : Option Ports), s.Inv → s.blk.phase = .transmitting → s.blk.sclkReg = true →
    s.blk.bitCnt = 0#5 → s.obs.devs[s.blk.selReg]? = some d →
    s.tick c =
      { s with blk := { s.blk with phase := .idle },
               obs := { s.obs with delivered := s.obs.delivered ++
                          [{ line := s.blk.selReg, bits := d.sr, count := d.cnt }] } } ∧
    s.blk.csN s.blk.selReg = .lo ∧ (s.tick c).blk.csN s.blk.selReg = .hi ∧
    s.blk.sclk = .hi ∧ (s.tick c).blk.sclk = .hi ∧ s.blk.mosi = .lo ∧ (s.tick c).blk.mosi = .lo ∧
    s.blk.busy = true ∧ (s.tick c).blk.busy = false ∧ (s.tick c).blk.cmdReady = true ∧
    (s.tick c).blk.shReg = 0#24 ∧ (s.tick c).blk.bitCnt = 0#5 ∧ (s.tick c).blk.sclkReg = true

/-- The whole timeline of one WRITE, tick by tick, whatever the host presents meanwhile: the table of R111, which the spec
derives from R101 and R106 to R110. `after n` is the state after
tick n, tick 0 being the tick of acceptance. -/
def Obligations.WriteTimeline : Prop :=
  ∀ (s : State) (op : Opcode) (data : Data) (sel : Nat) (ins : List (Option Ports)),
    s.Inv → s.blk.cmdReady = true → s.blk.busInit = true → validOpcode op = true → s.cfg.hasLine sel = true →
    ins.length = 49 →
    let f : Frame := frame op data
    let after : Nat → State := fun n => s.ticks ((some (writePorts op data sel) :: ins).take (n + 1))
    let pins : State → Pin → Pin → Pin → Prop :=
      fun t cs sclk mosi => t.blk.csN sel = cs ∧ t.blk.sclk = sclk ∧ t.blk.mosi = mosi
    exec (.write op data sel) s = .next (after 0) ∧
    pins s .hi .hi .lo ∧
    ((after 0).blk = { s.blk with phase := .selected, bitCnt := 24#5, shReg := f, selReg := sel } ∧
      pins (after 0) .lo .hi (Pin.ofBool (f.getLsbD 23))) ∧
    (∀ k, 1 ≤ k → k ≤ 24 →
      ((after (2 * k - 1)).blk = { s.blk with phase := .transmitting, sclkReg := false,
                                              bitCnt := BitVec.ofNat 5 (25 - k), shReg := f <<< (k - 1), selReg := sel } ∧
        pins (after (2 * k - 1)) .lo .lo (Pin.ofBool (f.getLsbD (24 - k))) ∧
        ∃ d, (after (2 * k - 1)).obs.devs[sel]? = some d ∧ d.cnt = k ∧ d.sr.getLsbD 0 = f.getLsbD (24 - k)) ∧
      ((after (2 * k)).blk = { s.blk with phase := .transmitting, sclkReg := true,
                                          bitCnt := BitVec.ofNat 5 (24 - k), shReg := f <<< k, selReg := sel } ∧
        pins (after (2 * k)) .lo .hi (Pin.ofBool (decide (k < 24) && f.getLsbD (23 - k))))) ∧
    ((after 49).blk = { s.blk with selReg := sel } ∧ pins (after 49) .hi .hi .lo) ∧
    (∀ n, n ≤ 48 → (after n).blk.cmdReady = false) ∧ (after 49).blk.cmdReady = true

/-- The delivery property (R54, which the spec derives from R53, R26 and R106 to R110): after exactly 50 ticks the block is again in IDLE and the observer has appended exactly one
record, the whole frame on the line asked for; that line made one low pulse and every other configured line stayed 1. -/
def Obligations.WriteDelivers : Prop :=
  ∀ (s : State) (op : Opcode) (data : Data) (sel : Nat) (ins : List (Option Ports)),
    s.Inv → s.blk.cmdReady = true → s.blk.busInit = true → validOpcode op = true → s.cfg.hasLine sel = true →
    ins.length = 49 →
    let after : Nat → State := fun n => s.ticks ((some (writePorts op data sel) :: ins).take (n + 1))
    exec (.write op data sel) s = .next (after 0) ∧
    (∀ n, n ≤ 48 → (after n).blk.phase ≠ .idle ∧ (after n).obs.delivered = s.obs.delivered) ∧
    (after 49).blk.phase = .idle ∧
    (after 49).obs.delivered = s.obs.delivered ++ [{ line := sel, bits := op ++ 0#4 ++ data, count := 24 }] ∧
    s.blk.csN sel = .hi ∧ (∀ n, n ≤ 48 → (after n).blk.csN sel = .lo) ∧ (after 49).blk.csN sel = .hi ∧
    (∀ j, j ≠ sel → s.cfg.hasLine j = true → ∀ n, n ≤ 49 → (after n).blk.csN j = .hi)

/-- A script of catalog commands, each held until accepted, delivers exactly their frames, whole and in the order of the
script, 50 ticks each, and leaves the block as it was but for SELREG (R47, R48, R72, R93). -/
def Obligations.ScriptsDeliverInOrder : Prop :=
  ∀ (s : State) (cmds : List (((Data → Nat → Instr) × Opcode) × Data × Nat)),
    s.Inv → s.blk.cmdReady = true → s.blk.busInit = true →
    (∀ x ∈ cmds, x.1 ∈ catalogRows ∧ s.cfg.hasLine x.2.2 = true) →
    s.host = cmds.map (fun x => HostLine.hold (encode (x.1.1 x.2.1 x.2.2))) →
    ∃ t, Sys2Proof.core.run (50 * cmds.length) s = .next t ∧
      t.obs.delivered = s.obs.delivered ++
        cmds.map (fun x => ({ line := x.2.2, bits := frame x.1.2 x.2.1, count := 24 } : Deliver)) ∧
      t.host = [] ∧ t.cfg = s.cfg ∧ t.skipped = s.skipped ∧ ∃ sel, t.blk = { s.blk with selReg := sel }

/-- A transaction in progress always completes, in at most 49 more ticks, whatever the host presents (R119). -/
def Obligations.BusyBlockCompletes : Prop :=
  ∀ s : State, s.Inv → s.blk.phase ≠ .idle →
    ∃ n, n ≤ 49 ∧ ∀ ins : List (Option Ports), ins.length = n →
      (s.ticks ins).blk.phase = .idle ∧ (s.ticks ins).blk.faultCause = .noFault

/-! ### Invariants (R33, R55) -/

/-- Every step keeps the invariant: of the registers (R33, R11) and of the observer's lines. From any state that meets it,
reached or not. -/
def Obligations.InvKeptByEveryStep : Prop :=
  ∀ s t : State, s.Inv → step s = .next t → t.Inv

/-- Every reset state meets the invariant: on every platform, with every script. -/
def Obligations.InvAfterReset : Prop :=
  State.reset.Inv ∧ ∀ (cfg : Config) (host : List HostLine), (State.start cfg host).Inv

/-- The seven items of R33, which the spec derives from R32 and R101 to R110, in every reachable state. -/
def Obligations.ReachableStatesMeetTheInvariants : Prop :=
  ∀ s : State, s.reachable →
    (s.blk.phase ≠ .idle → s.blk.busInit = true ∧ s.blk.faultCause = .noFault ∧ s.blk.selReg < s.cfg.nCs ∧
      s.blk.csInit.getD s.blk.selReg false = true) ∧
    (s.blk.phase = .idle → s.blk.shReg = 0#24 ∧ s.blk.bitCnt = 0#5 ∧ s.blk.sclkReg = true) ∧
    (s.blk.phase = .selected → s.blk.bitCnt = 24#5 ∧ s.blk.sclkReg = true ∧ s.blk.shReg.extractLsb' 16 4 = 0#4 ∧
      validOpcode (s.blk.shReg.extractLsb' 20 4) = true) ∧
    (s.blk.phase = .transmitting → s.blk.bitCnt.toNat ≤ 24 ∧
      (∃ op data, validOpcode op = true ∧ s.blk.shReg = frame op data <<< (24 - s.blk.bitCnt.toNat)) ∧
      (s.blk.bitCnt = 24#5 → s.blk.sclkReg = false)) ∧
    (∀ i j, s.blk.csN i = .lo → s.blk.csN j = .lo → i = j) ∧ (s.blk.phase = .idle → ∀ i, s.blk.csN i ≠ .lo) ∧
    (s.blk.faultCause ≠ .noFault → s.blk.phase = .idle) ∧
    ((s.blk.busInit = false ∧ ∀ i, s.blk.csInit.getD i false = false) ∨
      (s.blk.busInit = true ∧ s.blk.csInit = s.cfg.csMask))

/-- R55: at most one line is low, and the line that is low does not change within a pulse, SELREG being written only at
acceptance. -/
def Obligations.AtMostOneLineLow : Prop :=
  ∀ (s : State) (c : Option Ports),
    (∀ i j, s.blk.csN i = .lo → s.blk.csN j = .lo → i = j) ∧
    (∀ i j, s.blk.csN i = .lo → (s.tick c).blk.csN j = .lo → j = i) ∧
    ((s.tick c).blk.selReg ≠ s.blk.selReg → s.blk.cmdReady = true ∧ c ≠ none)

/-- Two pulses never overlap, on one line or on two (R48, R112 item 5): when a line falls, every configured line was high. -/
def Obligations.PulsesNeverOverlap : Prop :=
  ∀ (s : State) (c : Option Ports) (i : Nat), s.Inv → s.blk.csN i ≠ .lo → (s.tick c).blk.csN i = .lo →
    s.blk.phase = .idle ∧ s.blk.csN i = .hi ∧ ∀ j, s.cfg.hasLine j = true → s.blk.csN j = .hi

/-- Absent a reset in mid-frame every record is a whole frame of the catalog (X6, R45, R67, R68): every other step keeps
this, together with what it rests on, that a transaction in progress has put its frame's leading bits into the device. That
a RESET line in IDLE shows the devices nothing, and so adds no record, is the model's choice (notes/assumptions/9.md). -/
def Obligations.WholeFramesOnly : Prop :=
  ∀ s t : State, s.Inv → s.wireInv → s.wholeFrames → ¬ s.cutsFrame → step s = .next t → t.wireInv ∧ t.wholeFrames

/-- Every reset state meets the premises of WholeFramesOnly. -/
def Obligations.WholeFramesAfterReset : Prop :=
  ∀ (cfg : Config) (host : List HostLine), (State.start cfg host).wireInv ∧ (State.start cfg host).wholeFrames

/-- Records are appended and never changed, and no step changes the configuration (R34, R52). -/
def Obligations.RecordsOnlyGrow : Prop :=
  ∀ s t : State, step s = .next t → s.obs.delivered <+: t.obs.delivered ∧ t.cfg = s.cfg

/-- R147: all the mode transitions there are. -/
def Obligations.ModeTransitions : Prop :=
  ∀ s : State, s.Inv →
    (∀ t, s.host.head? = some .reset → step s = .next t → t.blk.mode = .uninit) ∧
    (s.blk.mode = .uninit → ∃ t, exec .init s = .next t ∧ t.blk.mode = .ready) ∧
    (s.blk.mode = .uninit → ∀ i, i ≠ .init → ∃ t, exec i s = .next t ∧ t.blk.mode = .faulted ∧
      (t.blk.faultCause = .invalidOpcode ∨ t.blk.faultCause = .busUninit)) ∧
    (s.blk.mode = .ready → s.blk.phase = .idle → ∀ i, i ≠ .init → ∃ t, exec i s = .next t ∧
      ((t.blk.mode = .ready ∧ t.blk.phase = .selected) ∨
        (t.blk.mode = .faulted ∧ (t.blk.faultCause = .invalidOpcode ∨ t.blk.faultCause = .selUninit)))) ∧
    (s.blk.mode = .ready → s.blk.phase = .idle →
      ∃ t, exec .init s = .next t ∧ t.blk.mode = .faulted ∧ t.blk.faultCause = .doubleInit) ∧
    (s.blk.mode = .ready → s.blk.phase ≠ .idle → ∀ c, (s.tick c).blk.mode = .ready ∧
      ((s.blk.phase = .selected ∧ (s.tick c).blk.phase = .transmitting) ∨
        (s.blk.phase = .transmitting ∧ (s.tick c).blk.phase ≠ .selected))) ∧
    (s.tick none).blk.mode = s.blk.mode ∧
    (s.blk.mode = .faulted → ∀ i, ∃ t, exec i s = .next t ∧ t.blk.mode = .faulted) ∧
    (∀ t, step s = .next t → s.blk.mode ≠ .uninit → t.blk.mode = .uninit → s.host.head? = some .reset) ∧
    (∀ t, step s = .next t → s.blk.mode = .faulted → t.blk.mode ≠ .faulted → s.host.head? = some .reset)

/-- The modes (R146): which commands are accepted and which pins are driven in each. -/
def Obligations.ModesAndPins : Prop :=
  ∀ s : State, s.Inv →
    (s.blk.mode = .uninit →
      s.blk.cmdReady = true ∧ (∀ i, s.blk.csN i = .z) ∧ s.blk.sclk = .z ∧ s.blk.mosi = .z) ∧
    (s.blk.mode = .ready →
      (s.blk.cmdReady = true ↔ s.blk.phase = .idle) ∧ (∀ i, s.blk.csN i = .z ↔ s.cfg.hasLine i = false) ∧
      s.blk.sclk ≠ .z ∧ s.blk.mosi ≠ .z) ∧
    (s.blk.mode = .faulted → s.blk.cmdReady = false ∧
      (((∀ i, s.blk.csN i = .z) ∧ s.blk.sclk = .z ∧ s.blk.mosi = .z) ∨
        ((∀ i, s.cfg.hasLine i = true → s.blk.csN i = .hi) ∧ s.blk.sclk = .hi ∧ s.blk.mosi = .lo)))

/-! ### Reset and boot (70_reset_and_hazards.md, R32) -/

/-- R32: the registers after reset, on every platform, the outputs that follow, and the mode. -/
def Obligations.ResetState : Prop :=
  (∀ cfg : Config,
    Block.reset cfg = { busInit := false, csInit := List.replicate cfg.nCs false, faultCause := .noFault, phase := .idle,
                        shReg := 0x000000#24, bitCnt := 0#5, selReg := 0, sclkReg := true } ∧
    (∀ i, (Block.reset cfg).csN i = .z) ∧ (Block.reset cfg).sclk = .z ∧ (Block.reset cfg).mosi = .z ∧
    (Block.reset cfg).busy = false ∧ (Block.reset cfg).fault = false ∧ (Block.reset cfg).faultCode = 0#3 ∧
    (Block.reset cfg).cmdReady = true ∧ (Block.reset cfg).mode = .uninit) ∧
  State.reset.blk = Block.reset State.reset.cfg ∧ State.reset.obs.delivered = []

/-- A RESET line puts every register at its reset value from any state, FAULTED included, and takes no tick (R140, R160,
R161). The last clause, that the observer is unchanged when PHASE was IDLE, is the model's choice: R53 calls a step with an
undriven pin undefined and R161 leaves the level to the board (notes/assumptions/9.md and 10.md). -/
def Obligations.ResetFromAnyState : Prop :=
  ∀ (s : State) (rest : List HostLine), s.host = .reset :: rest →
    ∃ t, step s = .next t ∧ t.cfg = s.cfg ∧ t.host = rest ∧ t.skipped = s.skipped ∧
      t.blk = { busInit := false, csInit := List.replicate s.cfg.nCs false, faultCause := .noFault, phase := .idle,
                shReg := 0#24, bitCnt := 0#5, selReg := 0, sclkReg := true } ∧
      (∀ i, t.blk.csN i = .z) ∧ t.blk.sclk = .z ∧ t.blk.mosi = .z ∧ t.blk.mode = .uninit ∧
      (s.blk.phase = .idle → t.obs = s.obs)

/-- Reset in mid-frame (R162). On a line with a pull-up the observer records what the device has so far: n sampling edges
and, in the low n bits, the leading n bits of the frame; the bits above the n received are unconstrained, the free value
Config.unreceivedBits (U20; the statement holds for every value of it; notes/assumptions/4.md), whatever DEV_SR held. On a
line that floats the device and the record are whatever
the free value says (the statement holds for every value of it; notes/assumptions/4.md), and every other line is untouched.
That a pull-up makes an undriven line read as high is the model's own parameter (notes/assumptions/3.md). The clauses on n
allow n = 24, when the reset comes after the last sampling edge, where R162 says n < 24: that is the model's choice
(notes/assumptions/17.md). -/
def Obligations.ResetInMidFrameRecordsThePart : Prop :=
  ∀ (s : State) (rest : List HostLine) (f : Frame) (d : Device),
    s.Inv → s.host = .reset :: rest → s.blk.phase ≠ .idle → s.carries f → s.obs.devs[s.blk.selReg]? = some d →
    ∃ t, step s = .next t ∧ t.blk = Block.reset s.cfg ∧
      (s.cfg.pulledUp s.blk.selReg = true →
        ∃ bits : Frame,
          t.obs = { s.obs with delivered := s.obs.delivered ++ [{ line := s.blk.selReg, bits := bits, count := d.cnt }],
                               draws := if d.cnt < 24 then s.obs.draws + 1 else s.obs.draws } ∧
          d.cnt ≤ 24 ∧ (d.cnt = 24 → s.blk.bitCnt.toNat ≤ 1) ∧
          (∀ j, j < d.cnt → bits.getLsbD j = f.getLsbD (24 - d.cnt + j)) ∧
          (∀ j, d.cnt ≤ j → j < 24 →
            bits.getLsbD j = (Config.unreceivedBits s.obs.draws s.blk.selReg).getLsbD (j - d.cnt))) ∧
      (s.cfg.pulledUp s.blk.selReg = false →
        let u := Config.floatSeen s.obs.draws s.blk.selReg
        t.obs = { devs := s.obs.devs.set s.blk.selReg { sr := u.sr, cnt := u.cnt },
                  delivered := s.obs.delivered ++
                    (u.record.map fun r => ({ line := s.blk.selReg, bits := r.1, count := r.2 } : Deliver)).toList,
                  draws := s.obs.draws + 1 })

/-- The state after INIT from reset, its pins, and that a WRITE that completes, from that state or from any with that block
but for SELREG, comes back to it but for SELREG, and so every one that completes does (R165, which the spec derives from
R32 and R104). -/
def Obligations.InitFromReset : Prop :=
  ∀ (cfg : Config) (host : List HostLine),
    ∃ t, exec .init (State.start cfg host) = .next t ∧
      t.blk = { busInit := true, csInit := cfg.csMask, faultCause := .noFault, phase := .idle, shReg := 0#24,
                bitCnt := 0#5, selReg := 0, sclkReg := true } ∧
      (∀ i, cfg.hasLine i = true → t.blk.csN i = .hi) ∧ t.blk.sclk = .hi ∧ t.blk.mosi = .lo ∧ t.blk.cmdReady = true ∧
      (∀ (u : State) (last : Nat) (op : Opcode) (data : Data) (sel : Nat) (ins : List (Option Ports)),
        u.cfg = cfg → u.blk = { t.blk with selReg := last } →
        validOpcode op = true → cfg.hasLine sel = true → ins.length = 49 →
        (u.ticks (some (writePorts op data sel) :: ins)).blk = { t.blk with selReg := sel })

/-- Every opening of a run but INIT faults (R164): any WRITE, in any spelling, as the first command after reset. -/
def Obligations.EveryOpeningButInitFaults : Prop :=
  ∀ (cfg : Config) (host : List HostLine) (i : Instr), i ≠ .init →
    ∃ x, (x = .invalidOpcode ∨ x = .busUninit) ∧
      exec i (State.start cfg host) =
        .next { State.start cfg host with blk := { Block.reset cfg with faultCause := x } }

/-! ### Outputs and constants -/

/-- R26, R27, R28: the pins as functions of the registers; after INIT, between transactions, every configured line is 1 and
mosi is 0. -/
def Obligations.PinsFollowTheRegisters : Prop :=
  (∀ (b : Block) (i : Nat),
    (b.csInit.getD i false = false → b.csN i = .z) ∧
    (b.csInit.getD i false = true → b.phase ≠ .idle → b.selReg = i → b.csN i = .lo) ∧
    (b.csInit.getD i false = true → (b.phase = .idle ∨ b.selReg ≠ i) → b.csN i = .hi)) ∧
  (∀ b : Block, (b.busInit = false → b.sclk = .z ∧ b.mosi = .z) ∧
    (b.busInit = true → b.sclk = Pin.ofBool b.sclkReg ∧ b.mosi = Pin.ofBool (b.shReg.getLsbD 23))) ∧
  (∀ s : State, s.Inv → s.blk.busInit = true → s.blk.phase = .idle →
    (∀ i, s.cfg.hasLine i = true → s.blk.csN i = .hi) ∧ s.blk.mosi = .lo)

/-- The status port (R22, R25): the three flags as functions of the registers, and the state in which each is what it
is at reset. -/
def Obligations.StatusPort : Prop :=
  (∀ b : Block, (b.busy = true ↔ b.phase ≠ .idle) ∧ (b.fault = true ↔ b.faultCause ≠ .noFault) ∧
    (b.cmdReady = true ↔ b.phase = .idle ∧ b.faultCause = .noFault) ∧ b.faultCode = b.faultCause.code) ∧
  State.reset.blk.busy = false ∧ State.reset.blk.fault = false ∧ State.reset.blk.cmdReady = true

/-- A tick with no command changes nothing while nothing is in progress (R101), nor does a step with an empty script; the run
is then over, unless a command was skipped and the block is not FAULTED, and ended well when there was neither skip nor
fault (R119; notes/assumptions/6.md and 19.md). -/
def Obligations.IdleTickChangesNothing : Prop :=
  ∀ s : State, s.blk.phase = .idle →
    s.tick none = s ∧
    (s.host = [] → step s = .next s ∧ s.over = (!s.skipped || s.blk.fault) ∧ s.final = (!s.skipped && !s.blk.fault))

/-- CONTROL_REG_VAL (R92): 0x0048, bits 6 and 3 set and all others clear; and the source's worked frame with it (R85). -/
def Obligations.ControlRegisterConstant : Prop :=
  controlRegVal = 0x0048#16 ∧ (∀ i, controlRegVal.getLsbD i = true ↔ i = 3 ∨ i = 6) ∧
  frame 0x4#4 controlRegVal = 0x400048#24

/-- The end of a run (R119, 90_conflicts.md C10): a run that is over stays over and keeps its verdict, whatever lines are
left; a FAULTED state is never final, nor over while a RESET line is left; a busy state is never over; a skipped command is
never forgotten, and is skipped only in FAULTED with a RESET line to come. What counts as accepted, and that a RESET line
left in FAULTED keeps the run going, are the model's choices (notes/assumptions/19.md). -/
def Obligations.OverRunsStayOver : Prop :=
  ∀ s : State,
    (∀ t, s.over = true → step s = .next t → t.over = true ∧ t.final = s.final) ∧
    (s.blk.faultCause ≠ .noFault → s.final = false) ∧
    (s.blk.faultCause ≠ .noFault → HostLine.reset ∈ s.host → s.over = false) ∧
    (s.blk.phase ≠ .idle → s.over = false) ∧
    (s.blk.faultCause = .noFault → ∀ c, (.hold c ∈ s.host ∨ .present c ∈ s.host) → s.over = false) ∧
    (s.blk.faultCause = .noFault → s.skipped = true → s.over = false) ∧
    (∀ t, step s = .next t → s.skipped = true → t.skipped = true) ∧
    (∀ t, step s = .next t → s.skipped = false → t.skipped = true →
      s.blk.faultCause ≠ .noFault ∧ HostLine.reset ∈ s.host ∧ ∃ c, s.host.head? = some (.hold c))
end

