-- ==== Sys2Proof/Laws/State.lean ====
section
/-! SUPPORT. What each update of the state leaves in each field: one lemma per field per update, true by rfl, so that no
proof unfolds a record update. -/

namespace Sys2Proof.Machine

variable (s : State) (b : Block) (cfg : Config) (c : Option Ports)

/-! ### The host's script -/

@[simp] theorem State.withHost_cfg (h : List HostLine) : (s.withHost h).cfg = s.cfg := rfl
@[simp] theorem State.withHost_blk (h : List HostLine) : (s.withHost h).blk = s.blk := rfl
@[simp] theorem State.withHost_obs (h : List HostLine) : (s.withHost h).obs = s.obs := rfl
@[simp] theorem State.withHost_host (h : List HostLine) : (s.withHost h).host = h := rfl
@[simp] theorem State.withHost_skipped (h : List HostLine) : (s.withHost h).skipped = s.skipped := rfl
@[simp] theorem State.skipTo_cfg (h : List HostLine) : (s.skipTo h).cfg = s.cfg := rfl
@[simp] theorem State.skipTo_blk (h : List HostLine) : (s.skipTo h).blk = s.blk := rfl
@[simp] theorem State.skipTo_obs (h : List HostLine) : (s.skipTo h).obs = s.obs := rfl
@[simp] theorem State.skipTo_host (h : List HostLine) : (s.skipTo h).host = h := rfl
@[simp] theorem State.skipTo_skipped (h : List HostLine) : (s.skipTo h).skipped = true := rfl

/-! ### A tick -/

@[simp] theorem State.tick_cfg : (s.tick c).cfg = s.cfg := rfl
@[simp] theorem State.tick_host : (s.tick c).host = s.host := rfl
@[simp] theorem State.tick_skipped : (s.tick c).skipped = s.skipped := rfl
@[simp] theorem State.tick_blk : (s.tick c).blk = s.blk.tick s.cfg c := rfl
theorem State.tick_obs : (s.tick c).obs = observe s.cfg s.blk (s.blk.tick s.cfg c) s.obs := rfl
@[simp] theorem State.ticks_nil : s.ticks [] = s := rfl
@[simp] theorem State.ticks_cons (cs : List (Option Ports)) : s.ticks (c :: cs) = (s.tick c).ticks cs := rfl

theorem State.ticks_append (xs ys : List (Option Ports)) : s.ticks (xs ++ ys) = (s.ticks xs).ticks ys := by
  induction xs generalizing s with
  | nil => rfl
  | cons x xs ih => exact ih (s.tick x)

@[simp] theorem State.ticks_cfg (cs : List (Option Ports)) : (s.ticks cs).cfg = s.cfg := by
  induction cs generalizing s with
  | nil => rfl
  | cons x xs ih => exact ih (s.tick x)

@[simp] theorem State.ticks_host (cs : List (Option Ports)) : (s.ticks cs).host = s.host := by
  induction cs generalizing s with
  | nil => rfl
  | cons x xs ih => exact ih (s.tick x)

@[simp] theorem State.ticks_skipped (cs : List (Option Ports)) : (s.ticks cs).skipped = s.skipped := by
  induction cs generalizing s with
  | nil => rfl
  | cons x xs ih => exact ih (s.tick x)

/-- What the block goes through depends on the platform, the block and the inputs, and on nothing else of the machine. -/
theorem State.ticks_blk_congr {u : State} (hc : s.cfg = u.cfg) (hb : s.blk = u.blk) (cs : List (Option Ports)) :
    (s.ticks cs).blk = (u.ticks cs).blk := by
  induction cs generalizing s u with
  | nil => exact hb
  | cons x xs ih => exact ih (s.tick x) hc (by rw [State.tick_blk, State.tick_blk, hc, hb])

/-! ### A pulse of reset -/

@[simp] theorem State.resetPulse_cfg : s.resetPulse.cfg = s.cfg := rfl
@[simp] theorem State.resetPulse_host : s.resetPulse.host = s.host := rfl
@[simp] theorem State.resetPulse_skipped : s.resetPulse.skipped = s.skipped := rfl
@[simp] theorem State.resetPulse_blk : s.resetPulse.blk = Block.reset s.cfg := rfl
theorem State.resetPulse_obs : s.resetPulse.obs = observe s.cfg s.blk (Block.reset s.cfg) s.obs := rfl
@[simp] theorem Block.reset_busInit : (Block.reset cfg).busInit = false := rfl
@[simp] theorem Block.reset_csInit : (Block.reset cfg).csInit = List.replicate cfg.nCs false := rfl
@[simp] theorem Block.reset_faultCause : (Block.reset cfg).faultCause = .noFault := rfl
@[simp] theorem Block.reset_phase : (Block.reset cfg).phase = .idle := rfl
@[simp] theorem Block.reset_shReg : (Block.reset cfg).shReg = 0#24 := rfl
@[simp] theorem Block.reset_bitCnt : (Block.reset cfg).bitCnt = 0#5 := rfl
@[simp] theorem Block.reset_selReg : (Block.reset cfg).selReg = 0 := rfl
@[simp] theorem Block.reset_sclkReg : (Block.reset cfg).sclkReg = true := rfl
@[simp] theorem State.start_cfg (h : List HostLine) : (State.start cfg h).cfg = cfg := rfl
@[simp] theorem State.start_blk (h : List HostLine) : (State.start cfg h).blk = Block.reset cfg := rfl
@[simp] theorem State.start_obs (h : List HostLine) : (State.start cfg h).obs = Observer.start cfg := rfl
@[simp] theorem State.start_host (h : List HostLine) : (State.start cfg h).host = h := rfl
@[simp] theorem State.start_skipped (h : List HostLine) : (State.start cfg h).skipped = false := rfl

/-! ### Fault entry and the start of a transaction -/

@[simp] theorem Block.raise_busInit (x : Cause) : (b.raise x).busInit = b.busInit := rfl
@[simp] theorem Block.raise_csInit (x : Cause) : (b.raise x).csInit = b.csInit := rfl
@[simp] theorem Block.raise_faultCause (x : Cause) : (b.raise x).faultCause = x := rfl
@[simp] theorem Block.raise_phase (x : Cause) : (b.raise x).phase = b.phase := rfl
@[simp] theorem Block.raise_shReg (x : Cause) : (b.raise x).shReg = b.shReg := rfl
@[simp] theorem Block.raise_bitCnt (x : Cause) : (b.raise x).bitCnt = b.bitCnt := rfl
@[simp] theorem Block.raise_selReg (x : Cause) : (b.raise x).selReg = b.selReg := rfl
@[simp] theorem Block.raise_sclkReg (x : Cause) : (b.raise x).sclkReg = b.sclkReg := rfl
variable (op : Opcode) (data : Data) (sel : Nat)
@[simp] theorem Block.startWrite_busInit : (b.startWrite op data sel).busInit = b.busInit := rfl
@[simp] theorem Block.startWrite_csInit : (b.startWrite op data sel).csInit = b.csInit := rfl
@[simp] theorem Block.startWrite_faultCause : (b.startWrite op data sel).faultCause = b.faultCause := rfl
@[simp] theorem Block.startWrite_phase : (b.startWrite op data sel).phase = .selected := rfl
@[simp] theorem Block.startWrite_shReg : (b.startWrite op data sel).shReg = frame op data := rfl
@[simp] theorem Block.startWrite_bitCnt : (b.startWrite op data sel).bitCnt = 24#5 := rfl
@[simp] theorem Block.startWrite_selReg : (b.startWrite op data sel).selReg = sel := rfl
@[simp] theorem Block.startWrite_sclkReg : (b.startWrite op data sel).sclkReg = b.sclkReg := rfl

/-! ### The ports -/

@[simp] theorem initPorts_kind : initPorts.kind = false := rfl
@[simp] theorem writePorts_kind : (writePorts op data sel).kind = true := rfl
@[simp] theorem writePorts_opcode : (writePorts op data sel).opcode = op := rfl
@[simp] theorem writePorts_data : (writePorts op data sel).data = data := rfl
@[simp] theorem writePorts_sel : (writePorts op data sel).sel = sel := rfl

end Sys2Proof.Machine
end

