-- ==== Sys2Proof/Laws/Config.lean ====
section
/-! SUPPORT. The platform's parameters: every line number fits the select port, and only configured lines are lines. -/

namespace Sys2Proof

/-- SELW bits can name every line (R6). -/
theorem Config.nCs_le_two_pow_selW (c : Config) : c.nCs ≤ 2 ^ c.selW := by
  unfold Config.selW
  split
  · have : (1 : Nat) ≤ 2 ^ max 1 0 := Nat.one_le_two_pow
    omega
  · have h1 : c.nCs - 1 < 2 ^ (Nat.log2 (c.nCs - 1) + 1) := Nat.lt_log2_self
    have h2 : 2 ^ (Nat.log2 (c.nCs - 1) + 1) ≤ 2 ^ max 1 (Nat.log2 (c.nCs - 1) + 1) :=
      Nat.pow_le_pow_right (by omega) (by omega)
    omega

/-- A line of CS_CFG is a line (R6). -/
theorem Config.lt_nCs_of_hasLine {c : Config} {i : Nat} (h : c.hasLine i = true) : i < c.nCs := by
  by_contra hi
  have : c.csCfg[i]? = none := List.getElem?_eq_none (Nat.le_of_not_lt hi)
  simp [Config.hasLine, List.getD_eq_getElem?_getD, this] at h

/-- A line of CS_CFG can be named on the select port. -/
theorem Config.selFits_of_hasLine {c : Config} {i : Nat} (h : c.hasLine i = true) : selFits c.selW i = true := by
  have h1 := Config.lt_nCs_of_hasLine h
  have h2 := c.nCs_le_two_pow_selW
  simp only [selFits, decide_eq_true_eq]
  omega

@[simp] theorem Config.csMask_getD (c : Config) (i : Nat) : c.csMask.getD i false = c.hasLine i := rfl

end Sys2Proof
end

