-- ==== Sys2Proof/Laws/Decode.lean ====
section
/-! SUPPORT. Frame assembly and its fields (R61 to R63), and what the decoder can answer. -/

namespace Sys2Proof

/-- The bits of a frame (R61). -/
theorem frame_getLsbD (op : Opcode) (data : Data) (i : Nat) :
    (frame op data).getLsbD i = if i < 16 then data.getLsbD i else if i < 20 then false else op.getLsbD (i - 20) := by
  simp only [frame, opcLsb, BitVec.getLsbD_or, BitVec.getLsbD_shiftLeft, BitVec.getLsbD_setWidth]
  have hd : 16 ≤ i → data.getLsbD i = false := fun h => BitVec.getLsbD_of_ge _ _ h
  have ho : 24 ≤ i → op.getLsbD (i - 20) = false := fun h => BitVec.getLsbD_of_ge _ _ (by omega)
  by_cases h1 : i < 16
  · simp [h1, show i < 24 by omega, show i < 20 by omega]
  · by_cases h2 : i < 20
    · simp [h1, h2, hd (by omega)]
    · by_cases h3 : i < 24
      · simp [h1, h2, h3, hd (by omega), show i - 20 < 24 by omega]
      · simp [h1, h2, h3, ho (by omega)]

@[simp] theorem frameOpcode_frame (op : Opcode) (data : Data) : frameOpcode (frame op data) = op := by
  apply BitVec.eq_of_getLsbD_eq
  intro i hi
  simp only [frameOpcode, BitVec.getLsbD_extractLsb', frame_getLsbD]
  simp [hi, show ¬ 20 + i < 16 by omega]

@[simp] theorem frameRsvd_frame (op : Opcode) (data : Data) : frameRsvd (frame op data) = 0#4 := by
  apply BitVec.eq_of_getLsbD_eq
  intro i hi
  simp only [frameRsvd, BitVec.getLsbD_extractLsb', frame_getLsbD]
  have h : 16 + i < 20 := by omega
  simp [h]

@[simp] theorem frameData_frame (op : Opcode) (data : Data) : frameData (frame op data) = data := by
  apply BitVec.eq_of_getLsbD_eq
  intro i hi
  simp only [frameData, BitVec.getLsbD_extractLsb', frame_getLsbD]
  simp [hi]

/-- A 24-bit value is the frame of its fields when its reserved bits are zero (R63 item 4). -/
theorem frame_of_fields {f : Frame} (h : frameRsvd f = 0#4) : frame (frameOpcode f) (frameData f) = f := by
  apply BitVec.eq_of_getLsbD_eq
  intro i hi
  simp only [frame_getLsbD, frameOpcode, frameData, BitVec.getLsbD_extractLsb']
  split
  · simp [*]
  · split
    · have h0 : (frameRsvd f).getLsbD (i - 16) = false := by rw [h]; simp
      simp only [frameRsvd, BitVec.getLsbD_extractLsb'] at h0
      have h1 : i - 16 < 4 := by omega
      have h2 : 16 + (i - 16) = i := by omega
      simpa [h1, h2] using h0.symm
    · have h1 : i - 20 < 4 := by omega
      have h2 : 20 + (i - 20) = i := by omega
      simp [h1, h2]

/-- What the decoder makes of a frame: refused for its reserved bits, refused for its opcode, or the catalog command of
its opcode with its data, on the line given. -/
theorem decodeFrame_cases (f : Frame) (sel : Nat) :
    (frameRsvd f ≠ 0#4 ∧ decodeFrame f sel = .error .reservedBits) ∨
    (frameRsvd f = 0#4 ∧ validOpcode (frameOpcode f) = false ∧ decodeFrame f sel = .error .reservedOpcode) ∨
    (frameRsvd f = 0#4 ∧ validOpcode (frameOpcode f) = true ∧
      ∃ i, decodeFrame f sel = .ok i ∧ encode i = .frame24 (frame (frameOpcode f) (frameData f)) sel ∧
        ∀ selW, i.wellFormed selW = selFits selW sel) := by
  by_cases hr : frameRsvd f = 0#4
  · right
    unfold decodeFrame
    simp only [hr, ne_eq, not_true_eq_false, if_false, true_and]
    generalize frameData f = data
    generalize frameOpcode f = op
    obtain ⟨⟨n, hn⟩⟩ := op
    interval_cases n <;>
      first
      | exact Or.inl ⟨rfl, rfl⟩
      | exact Or.inr ⟨rfl, _, rfl, rfl, fun _ => rfl⟩
  · exact Or.inl ⟨hr, by simp [decodeFrame, hr]⟩

/-- What the decoder answers is an instruction the port can carry. -/
theorem decode_wellFormed {selW : Nat} {c : HostCmd} {i : Instr} (h : decode selW c = .ok i) :
    i.wellFormed selW = true := by
  cases c with
  | frame24 f sel =>
    simp only [decode] at h
    split at h
    · obtain ⟨-, hd⟩ | ⟨-, -, hd⟩ | ⟨-, -, j, hd, -, hw⟩ := decodeFrame_cases f sel
      · simp [hd] at h
      · simp [hd] at h
      · rw [hd] at h
        cases h
        rw [hw]
        assumption
    · cases h
  | hostcmd p =>
    simp only [decode] at h
    split at h
    · cases h
      unfold decodePorts
      split
      · assumption
      · rfl
    · cases h

end Sys2Proof
end

