-- ==== Sys2Proof/Laws/Pins.lean ====
section
/-! SUPPORT. What the pin functions show (R26 to R28), and what the status port shows (R22). -/

namespace Sys2Proof.Machine

variable (b : Block) (i : Nat)

/-- A line is low exactly when it is configured and is the line of the transaction in progress. -/
theorem Block.csN_eq_lo_iff : b.csN i = .lo ↔ b.csInit.getD i false = true ∧ b.phase ≠ .idle ∧ b.selReg = i := by
  unfold Block.csN
  cases b.csInit.getD i false <;> simp

/-- A line is undriven exactly when it is not configured. -/
theorem Block.csN_eq_z_iff : b.csN i = .z ↔ b.csInit.getD i false = false := by
  unfold Block.csN
  cases b.csInit.getD i false
  · simp
  · simp only [Bool.true_eq_false, if_false, iff_false]
    split <;> decide

theorem Block.csN_ne_lo_of_idle (h : b.phase = .idle) : b.csN i ≠ .lo := by
  simp [Block.csN_eq_lo_iff, h]

/-- A configured line is high while nothing is in progress. -/
theorem Block.csN_eq_hi_of_idle (hc : b.csInit.getD i false = true) (h : b.phase = .idle) : b.csN i = .hi := by
  unfold Block.csN
  rw [hc]
  simp [h]

/-- A configured line other than the selected one is high. -/
theorem Block.csN_eq_hi_of_other (hc : b.csInit.getD i false = true) (h : b.selReg ≠ i) : b.csN i = .hi := by
  unfold Block.csN
  rw [hc]
  simp [h]

/-- The selected line is low while a transaction is in progress. -/
theorem Block.csN_eq_lo (hc : b.csInit.getD i false = true) (hp : b.phase ≠ .idle) (h : b.selReg = i) :
    b.csN i = .lo := (Block.csN_eq_lo_iff b i).2 ⟨hc, hp, h⟩

theorem Block.sclk_eq (h : b.busInit = true) : b.sclk = Pin.ofBool b.sclkReg := by simp [Block.sclk, h]

theorem Block.mosi_eq (h : b.busInit = true) : b.mosi = Pin.ofBool b.shReg.msb := by simp [Block.mosi, h]

@[simp] theorem Pin.ofBool_true : Pin.ofBool true = .hi := rfl
@[simp] theorem Pin.ofBool_false : Pin.ofBool false = .lo := rfl

theorem Pin.ofBool_ne_z (x : Bool) : Pin.ofBool x ≠ .z := by cases x <;> decide

@[simp] theorem Block.csN_reset (cfg : Config) : (Block.reset cfg).csN i = .z := by
  rw [Block.csN_eq_z_iff, Block.reset_csInit, List.getD_eq_getElem?_getD, List.getElem?_replicate]
  split <;> rfl

@[simp] theorem Block.sclk_reset (cfg : Config) : (Block.reset cfg).sclk = .z := rfl
@[simp] theorem Block.mosi_reset (cfg : Config) : (Block.reset cfg).mosi = .z := rfl

theorem Block.cmdReady_iff : b.cmdReady = true ↔ b.phase = .idle ∧ b.faultCause = .noFault := by
  simp [Block.cmdReady]

theorem Block.cmdReady_eq_false_iff : b.cmdReady = false ↔ b.phase ≠ .idle ∨ b.faultCause ≠ .noFault := by
  rw [← Bool.not_eq_true, Block.cmdReady_iff, not_and_or]

theorem Block.busy_iff : b.busy = true ↔ b.phase ≠ .idle := by simp [Block.busy]

theorem Block.fault_iff : b.fault = true ↔ b.faultCause ≠ .noFault := by simp [Block.fault]

end Sys2Proof.Machine
end

