-- ==== Sys2Proof/Laws/Observer.lean ====
section
/-! SUPPORT. What the observer's step can do. One line: quiet, select, sampling edge, release. All lines: nothing happens
when no line is low before or after, and only the low line's device changes otherwise. -/

namespace Sys2Proof.Machine

variable (cfg : Config) (draw i : Nat) (p q : LinePins) (d : Device) (b b' : Block) (o : Observer)

@[simp] theorem Seen.quiet_dev : (Seen.quiet d).dev = d := rfl
@[simp] theorem Seen.quiet_record : (Seen.quiet d).record = none := rfl
@[simp] theorem Seen.quiet_drew : (Seen.quiet d).drew = false := rfl
@[simp] theorem Block.linePins_cs : (b.linePins i).cs = b.csN i := rfl
@[simp] theorem Block.linePins_sclk : (b.linePins i).sclk = b.sclk := rfl
@[simp] theorem Block.linePins_mosi : (b.linePins i).mosi = b.mosi := rfl
@[simp] theorem Device.sample_cnt (bit : Bool) : (d.sample bit).cnt = d.cnt + 1 := rfl
@[simp] theorem Device.sample_sr (bit : Bool) :
    (d.sample bit).sr = (d.sr <<< 1) ||| (BitVec.ofBool bit).setWidth 24 := rfl

@[simp] theorem selectLevel_lo : selectLevel cfg i .lo = .lo := by simp [selectLevel]
@[simp] theorem selectLevel_hi : selectLevel cfg i .hi = .hi := by simp [selectLevel]

theorem selectLevel_ne_lo {x : Pin} (h : x ≠ .lo) : selectLevel cfg i x ≠ .lo := by
  unfold selectLevel
  split
  · decide
  · exact h

/-! ### A cut frame -/

@[simp] theorem Seen.cut_dev : (Seen.cut draw i d).dev = d := rfl
@[simp] theorem Seen.cut_record : (Seen.cut draw i d).record =
    some { line := i, bits := receivedBits d.cnt d.sr (Config.unreceivedBits draw i), count := d.cnt } := rfl
@[simp] theorem Seen.cut_drew : (Seen.cut draw i d).drew = decide (d.cnt < 24) := rfl

/-- Every bit of a record of a cut frame: sampled below n, free from n on. -/
theorem receivedBits_getLsbD (n : Nat) (sr free : Frame) (j : Nat) (hj : j < 24) :
    (receivedBits n sr free).getLsbD j = if j < n then sr.getLsbD j else free.getLsbD (j - n) := by
  simp only [receivedBits, BitVec.getLsbD_or, BitVec.getLsbD_shiftLeft, BitVec.getLsbD_and, BitVec.getLsbD_ushiftRight,
    BitVec.getLsbD_allOnes]
  by_cases h : j < n
  · simp [h, hj, show 24 - n + j < 24 by omega]
  · simp [h, hj, show ¬ 24 - n + j < 24 by omega]

/-- With 24 sampling edges nothing of the record is free. -/
theorem receivedBits_of_whole (n : Nat) (sr free : Frame) (hn : 24 ≤ n) : receivedBits n sr free = sr := by
  apply BitVec.eq_of_getLsbD_eq
  intro j hj
  rw [receivedBits_getLsbD _ _ _ _ hj, if_pos (by omega)]

/-! ### One line -/

/-- A line that is not low before or after sees nothing. -/
theorem observeLine_quiet (hp : p.cs ≠ .lo) (hq : q.cs ≠ .lo) : observeLine cfg draw i p q d = Seen.quiet d := by
  have h1 := selectLevel_ne_lo cfg i hp
  have h2 := selectLevel_ne_lo cfg i hq
  unfold observeLine
  generalize selectLevel cfg i p.cs = x at *
  generalize selectLevel cfg i q.cs = y at *
  cases x <;> cases y <;> simp_all

/-- The chip select falls. -/
theorem observeLine_select (hp : p.cs = .hi) (hq : q.cs = .lo) :
    observeLine cfg draw i p q d = Seen.quiet { d with cnt := 0 } := by
  simp [observeLine, hp, hq]

/-- The chip select rises: a record. -/
theorem observeLine_release (hp : p.cs = .lo) (hq : q.cs = .hi) :
    observeLine cfg draw i p q d =
      { dev := d, record := some { line := i, bits := d.sr, count := d.cnt }, drew := false } := by
  simp [observeLine, hp, hq]

/-- The clock falls under a low chip select: a sampling edge. -/
theorem observeLine_sample (hp : p.cs = .lo) (hq : q.cs = .lo) (hs : p.sclk = .hi) (hs' : q.sclk = .lo) {bit : Bool}
    (hm : q.mosi = Pin.ofBool bit) : observeLine cfg draw i p q d = Seen.quiet (d.sample bit) := by
  cases bit <;> simp [observeLine, observeLow, hp, hq, hs, hs', hm]

/-- The clock rises under a low chip select: nothing. -/
theorem observeLine_rise (hp : p.cs = .lo) (hq : q.cs = .lo) (hs : p.sclk = .lo) (hs' : q.sclk = .hi) :
    observeLine cfg draw i p q d = Seen.quiet d := by
  simp [observeLine, observeLow, hp, hq, hs, hs']

/-- A low line becomes undriven and a pull-up makes it read as high: a record of what was received (R162). -/
theorem observeLine_cut (hp : p.cs = .lo) (hq : q.cs = .z) (hu : cfg.pulledUp i = true) :
    observeLine cfg draw i p q d = Seen.cut draw i d := by
  simp [observeLine, selectLevel, hp, hq, hu]

/-- A low line becomes undriven and nothing pulls it: a free value (R162). -/
theorem observeLine_float (hp : p.cs = .lo) (hq : q.cs = .z) (hu : cfg.pulledUp i = false) :
    observeLine cfg draw i p q d = Seen.undefined draw i := by
  simp [observeLine, selectLevel, hp, hq, hu]

/-! ### All lines -/

theorem filterMap_mapIdx_eq_nil {α β γ : Type} (f : Nat → α → β) (g : β → Option γ) (l : List α)
    (h : ∀ i a, l[i]? = some a → g (f i a) = none) : (l.mapIdx f).filterMap g = [] := by
  rw [List.filterMap_eq_nil_iff]
  intro x hx
  obtain ⟨i, hi, rfl⟩ := List.mem_iff_getElem.1 hx
  rw [List.getElem_mapIdx]
  exact h i _ (List.getElem?_eq_getElem (by simpa using hi))

/-- Only entry k may yield something: then it is all that the list yields. -/
theorem filterMap_mapIdx_single {α β γ : Type} (f : Nat → α → β) (g : β → Option γ) (l : List α) (k : Nat) {a : α}
    (hk : l[k]? = some a) (h : ∀ i a, i ≠ k → l[i]? = some a → g (f i a) = none) :
    (l.mapIdx f).filterMap g = (g (f k a)).toList := by
  induction l generalizing f k with
  | nil => simp at hk
  | cons x xs ih =>
    rw [List.mapIdx_cons, List.filterMap_cons]
    cases k with
    | zero =>
      have hx : x = a := by simpa using hk
      have hnil : (xs.mapIdx fun i => f (i + 1)).filterMap g = [] :=
        filterMap_mapIdx_eq_nil _ g xs fun i c hc => h (i + 1) c (by omega) (by simpa using hc)
      subst hx
      cases hg : g (f 0 x) <;> simp [hnil]
    | succ k =>
      have h0 : g (f 0 x) = none := h 0 x (by omega) (by simp)
      have := ih (fun i => f (i + 1)) k (by simpa using hk)
        fun i c hi hc => h (i + 1) c (by omega) (by simpa using hc)
      simp [h0, this]

/-- The observation of line i. -/
theorem observeLines_getElem? :
    (observeLines cfg b b' o)[i]? = o.devs[i]?.map fun d =>
      if cfg.hasLine i then observeLine cfg o.draws i (b.linePins i) (b'.linePins i) d else Seen.quiet d := by
  simp [observeLines, List.getElem?_mapIdx]

@[simp] theorem observeLines_length : (observeLines cfg b b' o).length = o.devs.length := by simp [observeLines]

@[simp] theorem observe_devs_length : (observe cfg b b' o).devs.length = o.devs.length := by simp [observe]

/-- If every observed line is quiet, the observer is as before. -/
theorem observe_eq_self
    (h : ∀ i d, o.devs[i]? = some d → cfg.hasLine i = true →
      observeLine cfg o.draws i (b.linePins i) (b'.linePins i) d = Seen.quiet d) :
    observe cfg b b' o = o := by
  have hl : observeLines cfg b b' o = o.devs.map Seen.quiet := by
    apply List.ext_getElem?
    intro i
    rw [observeLines_getElem?, List.getElem?_map]
    cases hd : o.devs[i]? with
    | none => rfl
    | some d =>
      cases hc : cfg.hasLine i with
      | false => simp
      | true => simp [h i d hd hc]
  cases o
  simp [observe, hl, Function.comp_def, List.filterMap_map]

/-- If every observed line but line k is quiet, only line k's device changes, and the records are line k's. -/
theorem observe_single {k : Nat} {d : Device} {x : Seen} (hk : o.devs[k]? = some d) (hc : cfg.hasLine k = true)
    (hx : observeLine cfg o.draws k (b.linePins k) (b'.linePins k) d = x)
    (h : ∀ i d, i ≠ k → o.devs[i]? = some d → cfg.hasLine i = true →
      observeLine cfg o.draws i (b.linePins i) (b'.linePins i) d = Seen.quiet d) :
    observe cfg b b' o =
      { devs := o.devs.set k x.dev, delivered := o.delivered ++ x.record.toList,
        draws := if x.drew then o.draws + 1 else o.draws } := by
  have hlt : k < o.devs.length := (List.getElem?_eq_some_iff.1 hk).1
  have hother : ∀ i e, i ≠ k → o.devs[i]? = some e →
      (if cfg.hasLine i then observeLine cfg o.draws i (b.linePins i) (b'.linePins i) e else Seen.quiet e)
        = Seen.quiet e := by
    intro i e hi he
    cases hci : cfg.hasLine i with
    | false => simp
    | true => simp [h i e hi he hci]
  have hl : observeLines cfg b b' o = (o.devs.map Seen.quiet).set k x := by
    apply List.ext_getElem?
    intro i
    rw [observeLines_getElem?, List.getElem?_set, List.getElem?_map]
    by_cases hi : k = i
    · subst hi
      rw [hk]
      simp [hc, hx, hlt]
    · rw [if_neg hi]
      cases hd : o.devs[i]? with
      | none => rfl
      | some e => simpa using hother i e (Ne.symm hi) hd
  have hrec : (observeLines cfg b b' o).filterMap (·.record) = x.record.toList := by
    have := filterMap_mapIdx_single
      (fun i e => if cfg.hasLine i then observeLine cfg o.draws i (b.linePins i) (b'.linePins i) e else Seen.quiet e)
      Seen.record o.devs k hk (fun i e hi he => by rw [hother i e hi he]; rfl)
    simpa [observeLines, hc, hx] using this
  have hdrew : (observeLines cfg b b' o).any (·.drew) = x.drew := by
    rw [hl]
    apply Bool.eq_iff_iff.2
    rw [List.any_eq_true]
    constructor
    · rintro ⟨y, hy, hyd⟩
      obtain hy | rfl := List.mem_or_eq_of_mem_set hy
      · obtain ⟨e, -, rfl⟩ := List.mem_map.1 hy
        simp at hyd
      · exact hyd
    · intro hd
      exact ⟨x, List.mem_set (by simpa using hlt) x, hd⟩
  unfold observe
  simp only [hrec, hdrew]
  rw [hl]
  congr 1
  rw [List.map_set, List.map_map]
  congr 1
  simp [Function.comp_def]

/-- While no line is low, neither before nor after, the observer sees nothing. -/
theorem observe_idle (h : b.phase = .idle) (h' : b'.phase = .idle) : observe cfg b b' o = o :=
  observe_eq_self cfg b b' o fun i d _ _ =>
    observeLine_quiet cfg o.draws i _ _ d (Block.csN_ne_lo_of_idle b i h) (Block.csN_ne_lo_of_idle b' i h')

/-- The records only grow. -/
theorem observe_delivered_prefix : o.delivered <+: (observe cfg b b' o).delivered := ⟨_, rfl⟩

end Sys2Proof.Machine
end

