-- ==== Sys2Proof/Laws/Ops.lean ====
section
/-! SUPPORT. What each shared operation can do, said once: DoInit, DoWrite, the sequencer's tick, and the tick of the
machine in each phase. -/

namespace Sys2Proof.Machine

variable (cfg : Config) (b : Block) (c : Option Ports)

/-! ### Commands -/

theorem Block.doInit_of_init (h : b.busInit = true) : b.doInit cfg = b.raise .doubleInit := by
  simp [Block.doInit, h]

theorem Block.doInit_of_uninit (h : b.busInit = false) :
    b.doInit cfg = { b with busInit := true, csInit := cfg.csMask, sclkReg := true, shReg := 0#24 } := by
  simp [Block.doInit, h]

@[simp] theorem Block.doInit_phase : (b.doInit cfg).phase = b.phase := by unfold Block.doInit; split <;> rfl

variable (op : Opcode) (data : Data) (sel : Nat)

theorem Block.doWrite_invalid (h : validOpcode op = false) : b.doWrite cfg op data sel = b.raise .invalidOpcode := by
  simp [Block.doWrite, h]

theorem Block.doWrite_bus (h : validOpcode op = true) (hb : b.busInit = false) :
    b.doWrite cfg op data sel = b.raise .busUninit := by simp [Block.doWrite, h, hb]

theorem Block.doWrite_sel (h : validOpcode op = true) (hb : b.busInit = true) (hs : b.lineReady cfg sel = false) :
    b.doWrite cfg op data sel = b.raise .selUninit := by simp [Block.doWrite, h, hb, hs]

theorem Block.doWrite_start (h : validOpcode op = true) (hb : b.busInit = true) (hs : b.lineReady cfg sel = true) :
    b.doWrite cfg op data sel = b.startWrite op data sel := by simp [Block.doWrite, h, hb, hs]

/-- A WRITE faults with one of three causes, or starts its transaction, the opcode being valid, the bus initialised and
the line configured. -/
theorem Block.doWrite_cases :
    (∃ x, x ≠ .noFault ∧ b.doWrite cfg op data sel = b.raise x) ∨
    (validOpcode op = true ∧ b.busInit = true ∧ b.lineReady cfg sel = true ∧
      b.doWrite cfg op data sel = b.startWrite op data sel) := by
  cases h1 : validOpcode op with
  | false => exact .inl ⟨.invalidOpcode, by decide, b.doWrite_invalid cfg op data sel h1⟩
  | true =>
    cases h2 : b.busInit with
    | false => exact .inl ⟨.busUninit, by decide, b.doWrite_bus cfg op data sel h1 h2⟩
    | true =>
      cases h3 : b.lineReady cfg sel with
      | false => exact .inl ⟨.selUninit, by decide, b.doWrite_sel cfg op data sel h1 h2 h3⟩
      | true => exact .inr ⟨rfl, rfl, rfl, b.doWrite_start cfg op data sel h1 h2 h3⟩

theorem Block.lineReady_iff :
    b.lineReady cfg sel = true ↔ sel < cfg.nCs ∧ b.csInit.getD sel false = true := by simp [Block.lineReady]

/-- What accepting a command can do: raise a fault, initialise the bus, or start a transaction. -/
theorem Block.accept_cases (p : Ports) :
    (∃ x, x ≠ .noFault ∧ b.accept cfg p = b.raise x) ∨
    (b.busInit = false ∧
      b.accept cfg p = { b with busInit := true, csInit := cfg.csMask, sclkReg := true, shReg := 0#24 }) ∨
    (validOpcode p.opcode = true ∧ b.busInit = true ∧ b.lineReady cfg p.sel = true ∧
      b.accept cfg p = b.startWrite p.opcode p.data p.sel) := by
  cases hk : p.kind with
  | false =>
    have ha : b.accept cfg p = b.doInit cfg := by simp [Block.accept, hk]
    cases hb : b.busInit with
    | false => exact .inr (.inl ⟨rfl, by rw [ha, b.doInit_of_uninit cfg hb]⟩)
    | true => exact .inl ⟨.doubleInit, by decide, by rw [ha, b.doInit_of_init cfg hb]⟩
  | true =>
    have ha : b.accept cfg p = b.doWrite cfg p.opcode p.data p.sel := by simp [Block.accept, hk]
    rw [ha]
    obtain h | ⟨h1, h2, h3, h4⟩ := b.doWrite_cases cfg p.opcode p.data p.sel
    · exact .inl h
    · exact .inr (.inr ⟨h1, h2, h3, h4⟩)

@[simp] theorem Block.accept_init : b.accept cfg initPorts = b.doInit cfg := rfl
@[simp] theorem Block.accept_write :
    b.accept cfg (writePorts op data sel) = b.doWrite cfg op data sel := rfl

/-! ### The block's tick, in each phase -/

theorem Block.tick_faulted (h : b.faultCause ≠ .noFault) : b.tick cfg c = b := by simp [Block.tick, h]

theorem Block.tick_idle_none (h : b.phase = .idle) : b.tick cfg none = b := by
  unfold Block.tick
  split
  · rfl
  · rw [h]

theorem Block.tick_ready (hp : b.phase = .idle) (hf : b.faultCause = .noFault) (p : Ports) :
    b.tick cfg (some p) = b.accept cfg p := by simp [Block.tick, hp, hf]

theorem Block.tick_selected (hp : b.phase = .selected) (hf : b.faultCause = .noFault) :
    b.tick cfg c = { b with phase := .transmitting, sclkReg := false } := by simp [Block.tick, hp, hf]

theorem Block.tick_rising (hp : b.phase = .transmitting) (hf : b.faultCause = .noFault) (hs : b.sclkReg = false) :
    b.tick cfg c = { b with sclkReg := true, shReg := b.shReg <<< 1, bitCnt := b.bitCnt - 1#5 } := by
  simp [Block.tick, Block.transmit, hp, hf, hs]

theorem Block.tick_falling (hp : b.phase = .transmitting) (hf : b.faultCause = .noFault) (hs : b.sclkReg = true)
    (hn : b.bitCnt ≠ 0#5) : b.tick cfg c = { b with sclkReg := false } := by
  simp [Block.tick, Block.transmit, hp, hf, hs, hn]

theorem Block.tick_release (hp : b.phase = .transmitting) (hf : b.faultCause = .noFault) (hs : b.sclkReg = true)
    (hn : b.bitCnt = 0#5) : b.tick cfg c = { b with phase := .idle } := by
  simp [Block.tick, Block.transmit, hp, hf, hs, hn]

/-- A block that is not ready does not read the port (R101, R102). -/
theorem Block.tick_not_ready (h : b.cmdReady = false) (c' : Option Ports) : b.tick cfg c = b.tick cfg c' := by
  unfold Block.tick
  split
  · rfl
  · rename_i hf
    cases hp : b.phase with
    | idle => simp_all [Block.cmdReady]
    | selected => rfl
    | transmitting => rfl

/-- Everything a tick of the block can do. -/
theorem Block.tick_cases :
    (b.faultCause ≠ .noFault ∧ b.tick cfg c = b) ∨
    (b.faultCause = .noFault ∧ b.phase = .idle ∧ c = none ∧ b.tick cfg c = b) ∨
    (b.faultCause = .noFault ∧ b.phase = .idle ∧ ∃ p, c = some p ∧ b.tick cfg c = b.accept cfg p) ∨
    (b.faultCause = .noFault ∧ b.phase = .selected ∧
      b.tick cfg c = { b with phase := .transmitting, sclkReg := false }) ∨
    (b.faultCause = .noFault ∧ b.phase = .transmitting ∧ b.sclkReg = false ∧
      b.tick cfg c = { b with sclkReg := true, shReg := b.shReg <<< 1, bitCnt := b.bitCnt - 1#5 }) ∨
    (b.faultCause = .noFault ∧ b.phase = .transmitting ∧ b.sclkReg = true ∧ b.bitCnt ≠ 0#5 ∧
      b.tick cfg c = { b with sclkReg := false }) ∨
    (b.faultCause = .noFault ∧ b.phase = .transmitting ∧ b.sclkReg = true ∧ b.bitCnt = 0#5 ∧
      b.tick cfg c = { b with phase := .idle }) := by
  by_cases hf : b.faultCause = .noFault
  · right
    obtain hp | hp | hp : b.phase = .idle ∨ b.phase = .selected ∨ b.phase = .transmitting := by
      cases b.phase <;> simp
    · cases c with
      | none => exact .inl ⟨hf, hp, rfl, b.tick_idle_none cfg hp⟩
      | some p => exact .inr (.inl ⟨hf, hp, p, rfl, b.tick_ready cfg hp hf p⟩)
    · exact .inr (.inr (.inl ⟨hf, hp, b.tick_selected cfg c hp hf⟩))
    · obtain hs | hs : b.sclkReg = false ∨ b.sclkReg = true := by cases b.sclkReg <;> simp
      · exact .inr (.inr (.inr (.inl ⟨hf, hp, hs, b.tick_rising cfg c hp hf hs⟩)))
      · by_cases hn : b.bitCnt = 0#5
        · exact .inr (.inr (.inr (.inr (.inr ⟨hf, hp, hs, hn, b.tick_release cfg c hp hf hs hn⟩))))
        · exact .inr (.inr (.inr (.inr (.inl ⟨hf, hp, hs, hn, b.tick_falling cfg c hp hf hs hn⟩))))
  · exact .inl ⟨hf, b.tick_faulted cfg c hf⟩

/-! ### The machine's tick -/

/-- While nothing is in progress before or after, a tick changes nothing but the block. -/
theorem State.tick_idle (s : State) (h : s.blk.phase = .idle) (h' : (s.blk.tick s.cfg c).phase = .idle) :
    s.tick c = { s with blk := s.blk.tick s.cfg c } := by
  unfold State.tick
  rw [observe_idle _ _ _ _ h h']

/-- The start of a transaction: the chip select falls, and the device on the line starts counting. -/
theorem State.tick_start (s : State) {d : Device} (hr : s.blk.cmdReady = true) (hv : validOpcode op = true)
    (hb : s.blk.busInit = true) (hi : s.blk.csInit.getD sel false = true) (hl : s.cfg.hasLine sel = true)
    (hd : s.obs.devs[sel]? = some d) :
    s.tick (some (writePorts op data sel)) =
      { s with blk := s.blk.startWrite op data sel,
               obs := { s.obs with devs := s.obs.devs.set sel { d with cnt := 0 } } } := by
  obtain ⟨hp, hf⟩ := (Block.cmdReady_iff s.blk).1 hr
  have hready : s.blk.lineReady s.cfg sel = true :=
    (Block.lineReady_iff _ _ _).2 ⟨Config.lt_nCs_of_hasLine hl, hi⟩
  have ht : s.blk.tick s.cfg (some (writePorts op data sel)) = s.blk.startWrite op data sel := by
    rw [s.blk.tick_ready s.cfg hp hf, Block.accept_write, s.blk.doWrite_start _ _ _ _ hv hb hready]
  unfold State.tick
  rw [ht]
  congr 1
  rw [observe_single s.cfg s.blk (s.blk.startWrite op data sel) s.obs hd hl
    (observeLine_select _ _ _ _ _ _ (Block.csN_eq_hi_of_idle _ _ hi hp)
      (Block.csN_eq_lo (s.blk.startWrite op data sel) sel hi (by simp) rfl))
    (fun i e hne _ _ => observeLine_quiet _ _ _ _ _ _ (Block.csN_ne_lo_of_idle _ _ hp)
      (by simp [Block.csN_eq_lo_iff, Ne.symm hne]))]
  simp

/-- A transaction is in progress on a driven, observed line, whose device is `d`. -/
structure State.Active (s : State) (d : Device) : Prop where
  noFault : s.blk.faultCause = .noFault
  bus     : s.blk.busInit = true
  line    : s.blk.csInit.getD s.blk.selReg false = true
  hasLine : s.cfg.hasLine s.blk.selReg = true
  dev     : s.obs.devs[s.blk.selReg]? = some d

/-- Every state that meets the invariant and is busy is Active. -/
theorem State.Inv.active {s : State} (h : s.Inv) (hp : s.blk.phase ≠ .idle) : ∃ d, s.Active d := by
  obtain ⟨hb, hf, hn, hl⟩ := h.block.active hp
  have hc : s.blk.csInit = s.cfg.csMask := by
    obtain ⟨h1, -⟩ | ⟨-, h2⟩ := h.block.lines
    · rw [hb] at h1
      cases h1
    · exact h2
  have hd : s.blk.selReg < s.obs.devs.length := by rw [h.devs]; exact hn
  exact ⟨s.obs.devs[s.blk.selReg], hf, hb, hl, by rw [← Config.csMask_getD, ← hc]; exact hl,
    List.getElem?_eq_getElem hd⟩

variable {s : State} {d : Device}

/-- The selected line of a transaction in progress is low. -/
theorem State.Active.cs_lo (h : s.Active d) (hp : s.blk.phase ≠ .idle) :
    (s.blk.linePins s.blk.selReg).cs = .lo := Block.csN_eq_lo _ _ h.line hp rfl

/-- Writing back what a device holds changes nothing. -/
theorem State.Active.devs_set (h : s.Active d) : s.obs.devs.set s.blk.selReg d = s.obs.devs := by
  obtain ⟨hlt, he⟩ := List.getElem?_eq_some_iff.1 h.dev
  rw [← he, List.set_getElem_self]

/-- While the selected line stays low, only its device can see anything. -/
theorem State.Active.observe_low {b' : Block} {x : Device} (h : s.Active d) (hp : s.blk.phase ≠ .idle)
    (hcs : b'.csInit = s.blk.csInit) (hsel : b'.selReg = s.blk.selReg) (hp' : b'.phase ≠ .idle)
    (hx : observeLow s.obs.draws s.blk.selReg (s.blk.linePins s.blk.selReg) (b'.linePins s.blk.selReg) d
      = Seen.quiet x) :
    observe s.cfg s.blk b' s.obs = { s.obs with devs := s.obs.devs.set s.blk.selReg x } := by
  have hlo : s.blk.csN s.blk.selReg = .lo := Block.csN_eq_lo _ _ h.line hp rfl
  have hlo' : b'.csN s.blk.selReg = .lo := Block.csN_eq_lo _ _ (by rw [hcs]; exact h.line) hp' hsel
  rw [observe_single s.cfg s.blk b' s.obs (x := Seen.quiet x) h.dev h.hasLine
    (by simp only [observeLine, Block.linePins_cs, hlo, hlo', selectLevel_lo]; exact hx)
    (fun i e hne _ _ => observeLine_quiet _ _ _ _ _ _
      (by simp [Block.csN_eq_lo_iff, Ne.symm hne]) (by simp [Block.csN_eq_lo_iff, hsel, Ne.symm hne]))]
  simp

/-- SELECTED: the first falling edge, a sampling edge (R107). -/
theorem State.Active.tick_selected (h : s.Active d) (hp : s.blk.phase = .selected) (hs : s.blk.sclkReg = true) :
    s.tick c =
      { s with blk := { s.blk with phase := .transmitting, sclkReg := false },
               obs := { s.obs with devs := s.obs.devs.set s.blk.selReg (d.sample s.blk.shReg.msb) } } := by
  unfold State.tick
  rw [s.blk.tick_selected s.cfg c hp h.noFault]
  congr 1
  refine h.observe_low (by simp [hp]) rfl rfl (by simp) ?_
  simp only [observeLow, Block.linePins, Block.sclk, Block.mosi, h.bus, hs, if_true, Pin.ofBool_true, Pin.ofBool_false]
  cases s.blk.shReg.msb <;> rfl

/-- TRANSMITTING, rising tick: the device sees nothing (R108). -/
theorem State.Active.tick_rising (h : s.Active d) (hp : s.blk.phase = .transmitting) (hs : s.blk.sclkReg = false) :
    s.tick c =
      { s with blk := { s.blk with sclkReg := true, shReg := s.blk.shReg <<< 1, bitCnt := s.blk.bitCnt - 1#5 } } := by
  unfold State.tick
  rw [s.blk.tick_rising s.cfg c hp h.noFault hs]
  congr 1
  refine Eq.trans (h.observe_low (x := d) (by simp [hp]) rfl rfl (by simp [hp]) ?_) (by rw [h.devs_set])
  simp [observeLow, Block.linePins, Block.sclk, h.bus, hs]

/-- TRANSMITTING, falling tick: a sampling edge (R109). -/
theorem State.Active.tick_falling (h : s.Active d) (hp : s.blk.phase = .transmitting) (hs : s.blk.sclkReg = true)
    (hn : s.blk.bitCnt ≠ 0#5) :
    s.tick c =
      { s with blk := { s.blk with sclkReg := false },
               obs := { s.obs with devs := s.obs.devs.set s.blk.selReg (d.sample s.blk.shReg.msb) } } := by
  unfold State.tick
  rw [s.blk.tick_falling s.cfg c hp h.noFault hs hn]
  congr 1
  refine h.observe_low (by simp [hp]) rfl rfl (by simp [hp]) ?_
  simp only [observeLow, Block.linePins, Block.sclk, Block.mosi, h.bus, hs, if_true, Pin.ofBool_true, Pin.ofBool_false]
  cases s.blk.shReg.msb <;> rfl

/-- When the transaction ends, only the selected line's observation `x` counts. -/
theorem State.Active.observe_end {b' : Block} {x : Seen} (h : s.Active d) (hp' : b'.phase = .idle)
    (hx : observeLine s.cfg s.obs.draws s.blk.selReg (s.blk.linePins s.blk.selReg) (b'.linePins s.blk.selReg) d = x) :
    observe s.cfg s.blk b' s.obs =
      { devs := s.obs.devs.set s.blk.selReg x.dev, delivered := s.obs.delivered ++ x.record.toList,
        draws := if x.drew then s.obs.draws + 1 else s.obs.draws } :=
  observe_single s.cfg s.blk b' s.obs h.dev h.hasLine hx
    (fun i e hne _ _ => observeLine_quiet _ _ _ _ _ _
      (by simp [Block.csN_eq_lo_iff, Ne.symm hne]) (Block.csN_ne_lo_of_idle _ _ hp'))

/-- TRANSMITTING to IDLE: the line is released and the observer records the transfer (R110). -/
theorem State.Active.tick_release (h : s.Active d) (hp : s.blk.phase = .transmitting) (hs : s.blk.sclkReg = true)
    (hn : s.blk.bitCnt = 0#5) :
    s.tick c =
      { s with blk := { s.blk with phase := .idle },
               obs := { s.obs with delivered := s.obs.delivered ++
                          [{ line := s.blk.selReg, bits := d.sr, count := d.cnt }] } } := by
  unfold State.tick
  rw [s.blk.tick_release s.cfg c hp h.noFault hs hn]
  congr 1
  refine (h.observe_end (b' := { s.blk with phase := .idle }) rfl (observeLine_release _ _ _ _ _ _
    (h.cs_lo (by simp [hp])) (Block.csN_eq_hi_of_idle { s.blk with phase := .idle } _ h.line rfl))).trans ?_
  simp [h.devs_set]

/-- A pulse of reset while nothing is in progress: the observer sees nothing (R161). -/
theorem State.resetPulse_of_idle (hp : s.blk.phase = .idle) :
    s.resetPulse = { s with blk := Block.reset s.cfg } := by
  unfold State.resetPulse
  rw [observe_idle _ _ _ _ hp rfl]

/-- A pulse of reset in mid-frame on a pulled-up line: the observer records the part that was sent, and a free value above
it (R162). -/
theorem State.Active.resetPulse_cut (h : s.Active d) (hp : s.blk.phase ≠ .idle)
    (hu : s.cfg.pulledUp s.blk.selReg = true) :
    s.resetPulse =
      { s with blk := Block.reset s.cfg,
               obs := { s.obs with
                 delivered := s.obs.delivered ++
                   [{ line := s.blk.selReg, count := d.cnt,
                      bits := receivedBits d.cnt d.sr (Config.unreceivedBits s.obs.draws s.blk.selReg) }],
                 draws := if d.cnt < 24 then s.obs.draws + 1 else s.obs.draws } } := by
  unfold State.resetPulse
  congr 1
  rw [h.observe_end rfl (observeLine_cut _ _ _ _ _ _ (h.cs_lo hp) (Block.csN_reset _ _) hu), Seen.cut_dev, h.devs_set]
  simp

/-- A pulse of reset in mid-frame on a line that floats: a free value is all that the observer holds of it (R162). -/
theorem State.Active.resetPulse_float (h : s.Active d) (hp : s.blk.phase ≠ .idle)
    (hu : s.cfg.pulledUp s.blk.selReg = false) :
    s.resetPulse =
      { s with blk := Block.reset s.cfg,
               obs := { devs := s.obs.devs.set s.blk.selReg (Seen.undefined s.obs.draws s.blk.selReg).dev,
                        delivered := s.obs.delivered ++ (Seen.undefined s.obs.draws s.blk.selReg).record.toList,
                        draws := s.obs.draws + 1 } } := by
  unfold State.resetPulse
  congr 1
  rw [h.observe_end rfl (observeLine_float _ _ _ _ _ _ (h.cs_lo hp) (Block.csN_reset _ _) hu)]
  rfl

end Sys2Proof.Machine
end

