-- ==== Sys2Proof/Laws/PerInstr.lean ====
section
/-! SUPPORT. The family of statements about every instruction as syntax: what the decoder reads is presentable. -/

namespace Sys2Proof.Laws.DecodedIsPresentable

/-- Whenever the decoder of a command port reads the instruction, the port can carry it (R24, R70). -/
def Statement (i : Instr) : Prop :=
  ∀ (selW : Nat) (c : HostCmd), decode selW c = .ok i → i.wellFormed selW = true

variable (data : Data) (sel : Nat)

theorem nop : Statement (.nop data sel) := fun _ _ => decode_wellFormed
theorem writeToInput : Statement (.writeToInput data sel) := fun _ _ => decode_wellFormed
theorem updateDac : Statement (.updateDac data sel) := fun _ _ => decode_wellFormed
theorem writeAndUpdate : Statement (.writeAndUpdate data sel) := fun _ _ => decode_wellFormed
theorem writeControl : Statement (.writeControl data sel) := fun _ _ => decode_wellFormed
theorem softwareDataReset : Statement (.softwareDataReset data sel) := fun _ _ => decode_wellFormed
theorem disableDaisyChain : Statement (.disableDaisyChain data sel) := fun _ _ => decode_wellFormed
theorem readInput : Statement (.readInput data sel) := fun _ _ => decode_wellFormed
theorem readDac : Statement (.readDac data sel) := fun _ _ => decode_wellFormed
theorem readControl : Statement (.readControl data sel) := fun _ _ => decode_wellFormed
theorem softwareFullReset : Statement (.softwareFullReset data sel) := fun _ _ => decode_wellFormed
theorem init : Statement .init := fun _ _ => decode_wellFormed
theorem write (opcode : Opcode) : Statement (.write opcode data sel) := fun _ _ => decode_wellFormed

end Sys2Proof.Laws.DecodedIsPresentable
end

