-- ==== Sys2Proof/Laws/Step.lean ====
section
/-! SUPPORT. exec and step: every meaning is one tick with that instruction's values on the command port, and a step is
a tick or a host line that takes none. -/

namespace Sys2Proof.Machine

variable (s : State) (data : Data) (sel : Nat)

/-- What an instruction puts on the command port (R70). -/
def portsOf : Instr → Ports
  | .nop data sel => writePorts 0x0#4 data sel
  | .writeToInput data sel => writePorts 0x1#4 data sel
  | .updateDac data sel => writePorts 0x2#4 data sel
  | .writeAndUpdate data sel => writePorts 0x3#4 data sel
  | .writeControl data sel => writePorts 0x4#4 data sel
  | .softwareDataReset data sel => writePorts 0x7#4 data sel
  | .disableDaisyChain data sel => writePorts 0x9#4 data sel
  | .readInput data sel => writePorts 0xA#4 data sel
  | .readDac data sel => writePorts 0xB#4 data sel
  | .readControl data sel => writePorts 0xC#4 data sel
  | .softwareFullReset data sel => writePorts 0xF#4 data sel
  | .init => initPorts
  | .write op data sel => writePorts op data sel

/-- Every instruction is one tick with its values on the port (R101 to R103). -/
theorem exec_eq_tick (i : Instr) : exec i s = .next (s.tick (some (portsOf i))) := by cases i <;> rfl

/-- Everything a step can do; what it leaves of the script is step_lines's to say. -/
theorem step_cases (t : State) (h : step s = .next t) :
    (∃ rest, t = s.withHost rest) ∨
    (∃ c rest, s.host = .hold c :: rest ∧ s.blk.fault = true ∧ rest.any HostLine.isReset = true ∧
      t = s.skipTo (rest.dropWhile fun l => !l.isReset)) ∨
    (∃ rest, s.host = .reset :: rest ∧ t = (s.withHost rest).resetPulse) ∨
    (∃ rest c, t = (s.withHost rest).tick c ∧
      (c ≠ none → ∃ l, s.host.head? = some l ∧ l.isCommand = true)) := by
  have hself : s = s.withHost s.host := rfl
  obtain ⟨x, hx⟩ : ∃ x, fetch s = x := ⟨_, rfl⟩
  have hx' := hx
  unfold fetch at hx
  unfold step at h
  rw [hx'] at h
  have hcmd : ∀ (c : HostCmd) (s' : State), (∃ l, s.host.head? = some l ∧ l.isCommand = true) →
      (∃ rest, s' = s.withHost rest) →
      (match decode s'.cfg.selW c with
        | .ok i => exec i s'
        | .error why => Host.Outcome.refused (.notPresentable why)) = .next t →
      ∃ rest c, t = (s.withHost rest).tick c ∧
        (c ≠ none → ∃ l, s.host.head? = some l ∧ l.isCommand = true) := by
    rintro c s' hl ⟨rest, rfl⟩ ht
    cases hd : decode (s.withHost rest).cfg.selW c with
    | ok i =>
      rw [hd] at ht
      simp only [exec_eq_tick] at ht
      cases ht
      exact ⟨rest, _, rfl, fun _ => hl⟩
    | error why =>
      rw [hd] at ht
      cases ht
  cases hh : s.host with
  | nil =>
    rw [hh] at hx
    subst hx
    cases h
    exact .inr (.inr (.inr ⟨s.host, none, rfl, fun h => absurd rfl h⟩))
  | cons l rest =>
    rw [← hh]
    rw [hh] at hx
    cases l with
    | hold c =>
      simp only at hx
      split at hx
      · rename_i hskip
        rw [Bool.and_eq_true] at hskip
        subst hx
        cases h
        exact .inr (.inl ⟨c, rest, hh, hskip.1, hskip.2, rfl⟩)
      · split at hx
        · subst hx
          exact .inr (.inr (.inr (hcmd c _ ⟨_, by rw [hh]; rfl, rfl⟩ ⟨_, rfl⟩ h)))
        · subst hx
          exact .inr (.inr (.inr (hcmd c s ⟨_, by rw [hh]; rfl, rfl⟩ ⟨s.host, rfl⟩ h)))
    | present c =>
      subst hx
      exact .inr (.inr (.inr (hcmd c _ ⟨_, by rw [hh]; rfl, rfl⟩ ⟨_, rfl⟩ h)))
    | wait =>
      simp only at hx
      split at hx
      · subst hx
        cases h
        exact .inr (.inr (.inr ⟨s.host, none, rfl, fun h => absurd rfl h⟩))
      · subst hx
        cases h
        exact .inl ⟨_, rfl⟩
    | idle n =>
      cases n with
      | zero =>
        subst hx
        cases h
        exact .inl ⟨_, rfl⟩
      | succ n =>
        subst hx
        cases h
        exact .inr (.inr (.inr ⟨_, none, rfl, fun h => absurd rfl h⟩))
    | reset =>
      subst hx
      cases h
      exact .inr (.inr (.inl ⟨rest, hh, rfl⟩))

/-- A step puts no line into the script: each line left was there, or counts down a TICK. -/
theorem step_lines {t : State} (h : step s = .next t) : ∀ l ∈ t.host, l ∈ s.host ∨ ∃ n, l = .idle n := by
  have hex : ∀ (i : Instr) (u : State), exec i u = .next t → t.host = u.host := by
    intro i u hu
    rw [exec_eq_tick] at hu
    cases hu
    rfl
  have hcmd : ∀ (c : HostCmd) (u : State), (∀ l ∈ u.host, l ∈ s.host) →
      (match decode u.cfg.selW c with
        | .ok i => exec i u
        | .error why => Host.Outcome.refused (.notPresentable why)) = .next t →
      ∀ l ∈ t.host, l ∈ s.host ∨ ∃ n, l = .idle n := by
    intro c u hu ht l hl
    cases hd : decode u.cfg.selW c with
    | ok i =>
      rw [hd] at ht
      rw [hex i u ht] at hl
      exact .inl (hu l hl)
    | error why =>
      rw [hd] at ht
      cases ht
  have hrest : ∀ {x : HostLine} {rest : List HostLine}, s.host = x :: rest → ∀ l ∈ rest, l ∈ s.host :=
    fun hh l hl => by rw [hh]; exact List.mem_cons_of_mem _ hl
  obtain ⟨x, hx⟩ : ∃ x, fetch s = x := ⟨_, rfl⟩
  unfold step at h
  rw [hx] at h
  unfold fetch at hx
  cases hh : s.host with
  | nil =>
    rw [hh] at hx
    subst hx
    cases h
    intro l hl
    rw [State.tick_host, hh] at hl
    cases hl
  | cons y rest =>
    rw [← hh]
    rw [hh] at hx
    cases y with
    | hold c =>
      simp only at hx
      split at hx
      · subst hx
        cases h
        exact fun l hl => .inl (hrest hh l ((List.dropWhile_suffix _).subset hl))
      · split at hx
        · subst hx
          exact hcmd c _ (hrest hh) h
        · subst hx
          exact hcmd c s (fun _ hl => hl) h
    | present c =>
      subst hx
      exact hcmd c _ (hrest hh) h
    | wait =>
      simp only at hx
      split at hx
      · subst hx
        cases h
        exact fun l hl => .inl hl
      · subst hx
        cases h
        exact fun l hl => .inl (hrest hh l hl)
    | idle n =>
      cases n with
      | zero =>
        subst hx
        cases h
        exact fun l hl => .inl (hrest hh l hl)
      | succ n =>
        subst hx
        cases h
        intro l hl
        obtain rfl | hl := List.mem_cons.1 hl
        · exact .inr ⟨n, rfl⟩
        · exact .inl (hrest hh l hl)
    | reset =>
      subst hx
      cases h
      exact fun l hl => .inl (hrest hh l hl)

end Sys2Proof.Machine
end

