-- ==== Sys2Proof/Tests/Slice0.lean ====
section
/-! SUPPORT. The model's own tests: the port check refuses an ill-formed term, words written out from the encodings decode
to their instructions, one step of each instruction gives what the vectors of 95_test_vectors.md give, and every
hypothesis of an obligation is met by a concrete state. Expected values come from spec/, the vector's name in the comment. -/

namespace Sys2Proof.Tests

open Sys2Proof Sys2Proof.Machine

/-! ### Helper states -/

/-- An idle state with the given configuration vector, bus flag, cause, last line and script; DEV_SR and DEV_CNT zero. -/
def idleState (cs : List Bool) (bus : Bool) (cause : Cause) (sel : Nat) (host : List HostLine) : State :=
  { cfg := { csCfg := cs, clkDiv := 1, pullUp := cs },
    blk := { busInit := bus, csInit := if bus then cs else List.replicate cs.length false, faultCause := cause,
             phase := .idle, shReg := 0#24, bitCnt := 0#5, selReg := sel, sclkReg := true },
    obs := { devs := List.replicate cs.length { sr := 0#24, cnt := 0 }, delivered := [], draws := 0 }, host := host,
    skipped := false }

/-- S_READY of 95_test_vectors.md, with a script. -/
def ready (host : List HostLine) : State := idleState [true, true] true .noFault 0 host

/-- A transaction on line 0 in progress, the device on the line being `d`, the line pulled up or not. -/
def busyState (phase : Phase) (sh : Frame) (cnt : BitVec 5) (sclk : Bool) (d : Device) (pull : Bool)
    (host : List HostLine) : State :=
  { cfg := { csCfg := [true, true], clkDiv := 1, pullUp := [pull, pull] },
    blk := { busInit := true, csInit := [true, true], faultCause := .noFault, phase := phase, shReg := sh,
             bitCnt := cnt, selReg := 0, sclkReg := sclk },
    obs := { devs := [d, { sr := 0#24, cnt := 0 }], delivered := [], draws := 0 }, host := host,
    skipped := false }

/-- Trace T1 after tick 1. -/
def selected : State := busyState .selected 0x400048#24 24#5 true { sr := 0#24, cnt := 0 } true []
/-- Trace T1 after tick 2. -/
def low24 : State := busyState .transmitting 0x400048#24 24#5 false { sr := 0#24, cnt := 1 } true []
/-- Trace T1 after tick 3. -/
def high23 : State := busyState .transmitting 0x800090#24 23#5 true { sr := 0#24, cnt := 1 } true []
/-- Trace T1 after tick 48. -/
def low1 : State := busyState .transmitting 0x000000#24 1#5 false { sr := 0x400048#24, cnt := 24 } true []
/-- Trace T1 after tick 49. -/
def high0 : State := busyState .transmitting 0x000000#24 0#5 true { sr := 0x400048#24, cnt := 24 } true []
/-- Program P4 after tick 11, the select line pulled up or floating. -/
def midFrame (pull : Bool) : State :=
  busyState .transmitting 0x1FFFE0#24 19#5 true { sr := 0x000006#24, cnt := 5 } pull [.reset]

/-- The next state an outcome carries. -/
def nextOf : Host.Outcome State Fault Refusal → Option State
  | .next s => some s
  | .fault _ => none
  | .refused _ => none

/-- What the tests look at after a step: PHASE, SHREG, SELREG and the pins of the two lines. -/
def view (s : State) : Phase × Frame × Nat × List Pin := (s.blk.phase, s.blk.shReg, s.blk.selReg,
  [s.blk.csN 0, s.blk.csN 1, s.blk.sclk, s.blk.mosi])

/-- What the fault tests look at: BUS_INIT, CS_INIT, FAULT_CAUSE, SELREG and the pins of the two lines. -/
def faultView (s : State) : Bool × List Bool × BitVec 3 × Nat × List Pin := (s.blk.busInit, s.blk.csInit, s.blk.faultCode,
  s.blk.selReg, [s.blk.csN 0, s.blk.csN 1, s.blk.sclk, s.blk.mosi])

/-! ### Well-formedness: the one check, the width of the select identifier, refuses an ill-formed term -/

theorem test_wf_refuses_nop : (Instr.nop 0#16 2).wellFormed 1 = false := by decide
theorem test_wf_refuses_writeToInput : (Instr.writeToInput 0#16 2).wellFormed 1 = false := by decide
theorem test_wf_refuses_updateDac : (Instr.updateDac 0#16 2).wellFormed 1 = false := by decide
theorem test_wf_refuses_writeAndUpdate : (Instr.writeAndUpdate 0#16 4).wellFormed 2 = false := by decide
theorem test_wf_refuses_writeControl : (Instr.writeControl 0#16 2).wellFormed 1 = false := by decide
theorem test_wf_refuses_softwareDataReset : (Instr.softwareDataReset 0#16 2).wellFormed 1 = false := by decide
theorem test_wf_refuses_disableDaisyChain : (Instr.disableDaisyChain 0#16 2).wellFormed 1 = false := by decide
theorem test_wf_refuses_readInput : (Instr.readInput 0#16 2).wellFormed 1 = false := by decide
theorem test_wf_refuses_readDac : (Instr.readDac 0#16 2).wellFormed 1 = false := by decide
theorem test_wf_refuses_readControl : (Instr.readControl 0#16 2).wellFormed 1 = false := by decide
theorem test_wf_refuses_softwareFullReset : (Instr.softwareFullReset 0#16 2).wellFormed 1 = false := by decide
theorem test_wf_refuses_write : (Instr.write 5#4 0#16 2).wellFormed 1 = false := by decide
theorem test_wf_accepts_init : Instr.init.wellFormed 1 = true := by decide
/-- F10: with N_CS = 3 the port has two bits, so identifier 3 can be presented. F15: with N_CS = 1 it has one. -/
theorem test_wf_port_width : ({ csCfg := [true, true, true], clkDiv := 1, pullUp := [] } : Config).selW = 2 ∧
    ({ csCfg := [true], clkDiv := 1, pullUp := [] } : Config).selW = 1 ∧ Config.standard.selW = 1 ∧
    ({ csCfg := List.replicate 5 true, clkDiv := 1, pullUp := [] } : Config).selW = 3 := by decide

/-! ### Decoding: one word of each row, written out from its encoding (R61, R66, R81 to R91) -/

theorem test_decode_nop : decodeFrame 0b000000001010010110100101#24 0 = .ok (.nop 0xA5A5#16 0) := by rfl
theorem test_decode_writeToInput : decodeFrame 0b000100000001001000110100#24 1 = .ok (.writeToInput 0x1234#16 1) := by rfl
theorem test_decode_updateDac : decodeFrame 0b001000001111111111111111#24 0 = .ok (.updateDac 0xFFFF#16 0) := by rfl
theorem test_decode_writeAndUpdate : decodeFrame 0b001100001000000000000000#24 0 = .ok (.writeAndUpdate 0x8000#16 0) := by
  rfl
theorem test_decode_writeControl : decodeFrame 0b010000000000000001001000#24 0 = .ok (.writeControl 0x0048#16 0) := by rfl
theorem test_decode_softwareDataReset :
    decodeFrame 0b011100001111111111111111#24 0 = .ok (.softwareDataReset 0xFFFF#16 0) := by rfl
theorem test_decode_disableDaisyChain :
    decodeFrame 0b100100000000000000000001#24 0 = .ok (.disableDaisyChain 0x0001#16 0) := by rfl
theorem test_decode_readInput : decodeFrame 0b101000001111111111111111#24 0 = .ok (.readInput 0xFFFF#16 0) := by rfl
theorem test_decode_readDac : decodeFrame 0b101100000000000000000000#24 1 = .ok (.readDac 0x0000#16 1) := by rfl
theorem test_decode_readControl : decodeFrame 0b110000001111111111111111#24 0 = .ok (.readControl 0xFFFF#16 0) := by rfl
theorem test_decode_softwareFullReset :
    decodeFrame 0b111100001010010110100101#24 0 = .ok (.softwareFullReset 0xA5A5#16 0) := by rfl
/-- The port values of P1's first line and of P2d's first (R70). -/
theorem test_decode_init : decode 1 (.hostcmd { kind := false, opcode := 0xF#4, data := 0xFFFF#16, sel := 1 }) = .ok .init := by
  rfl
theorem test_decode_write : decode 1 (.hostcmd { kind := true, opcode := 0x5#4, data := 0x1000#16, sel := 1 }) =
    .ok (.write 0x5#4 0x1000#16 1) := by rfl
/-- The five reserved opcodes (R67), reserved bits (R68), and an identifier that no port carries (R24). -/
theorem test_decode_refuses :
    [0x500000#24, 0x600000#24, 0x800000#24, 0xD00000#24, 0xE00000#24].all
      (fun f => match decodeFrame f 0 with | .error .reservedOpcode => true | _ => false) = true ∧
    [0x010000#24, 0x480048#24, 0xFF0000#24].all
      (fun f => match decodeFrame f 0 with | .error .reservedBits => true | _ => false) = true ∧
    (match decode 1 (.frame24 0x400048#24 2) with | .error .selTooWide => true | _ => false) = true ∧
    (match decodeBytes 0 [0x40#8, 0x00#8] with | .error .truncated => true | _ => false) = true := by decide
/-- R64's example: bytes 40 00 48. -/
theorem test_decode_bytes : decodeBytes 0 [0x40#8, 0x00#8, 0x48#8, 0xFF#8] = .ok (.writeControl 0x0048#16 0, [0xFF#8]) := by
  rfl
/-- The table's own numbering: kind in bit 0 of a HOSTCMD row, the frame in the low 24 bits of a FRAME24 row. -/
theorem test_decodeTableWord : decodeTableWord 24 0x400048 = some (.writeControl 0x0048#16 0) ∧
    decodeTableWord 8 0 = some .init ∧ decodeTableWord 8 1 = some (.write 0#4 0#16 0) := ⟨rfl, rfl, rfl⟩

/-! ### One step of each instruction -/

/-- A word placed by withFetchWord is run by the next step after reset: F2's WRITE is refused by the bus check. -/
theorem test_first_step_frame : (nextOf (step (State.reset.withFetchWord 24 0x308000))).map faultView =
    some (false, [false, false], 2#3, 0, [.z, .z, .z, .z]) := by decide
theorem test_first_step_hostcmd : (nextOf (step (State.reset.withFetchWord 8 0))).map faultView =
    some (true, [true, true], 0#3, 0, [.hi, .hi, .hi, .lo]) := by decide

/-- Accepted on S_READY: V3, V7, V9, V12, V17, V19, V22, V24, V25, V28, V31; the chip select falls, sclk stays 1, and mosi
is frame bit 23 (R106). -/
theorem test_exec_nop : (nextOf (exec (.nop 0xA5A5#16 0) (ready []))).map view =
    some (.selected, 0x00A5A5#24, 0, [.lo, .hi, .hi, .lo]) := by decide
theorem test_exec_writeToInput : (nextOf (exec (.writeToInput 0x1234#16 1) (ready []))).map view =
    some (.selected, 0x101234#24, 1, [.hi, .lo, .hi, .lo]) := by decide
theorem test_exec_updateDac : (nextOf (exec (.updateDac 0xFFFF#16 0) (ready []))).map view =
    some (.selected, 0x20FFFF#24, 0, [.lo, .hi, .hi, .lo]) := by decide
theorem test_exec_writeAndUpdate : (nextOf (exec (.writeAndUpdate 0x8000#16 1) (ready []))).map view =
    some (.selected, 0x308000#24, 1, [.hi, .lo, .hi, .lo]) := by decide
theorem test_exec_writeControl : (nextOf (exec (.writeControl controlRegVal 0) (ready []))).map view =
    some (.selected, 0x400048#24, 0, [.lo, .hi, .hi, .lo]) := by decide
theorem test_exec_softwareDataReset : (nextOf (exec (.softwareDataReset 0xFFFF#16 0) (ready []))).map view =
    some (.selected, 0x70FFFF#24, 0, [.lo, .hi, .hi, .lo]) := by decide
theorem test_exec_disableDaisyChain : (nextOf (exec (.disableDaisyChain 0x0001#16 0) (ready []))).map view =
    some (.selected, 0x900001#24, 0, [.lo, .hi, .hi, .hi]) := by decide
theorem test_exec_readInput : (nextOf (exec (.readInput 0xFFFF#16 0) (ready []))).map view =
    some (.selected, 0xA0FFFF#24, 0, [.lo, .hi, .hi, .hi]) := by decide
theorem test_exec_readDac : (nextOf (exec (.readDac 0x0000#16 1) (ready []))).map view =
    some (.selected, 0xB00000#24, 1, [.hi, .lo, .hi, .hi]) := by decide
theorem test_exec_readControl : (nextOf (exec (.readControl 0xFFFF#16 0) (ready []))).map view =
    some (.selected, 0xC0FFFF#24, 0, [.lo, .hi, .hi, .hi]) := by decide
theorem test_exec_softwareFullReset : (nextOf (exec (.softwareFullReset 0xA5A5#16 0) (ready []))).map view =
    some (.selected, 0xF0A5A5#24, 0, [.lo, .hi, .hi, .hi]) := by decide
theorem test_exec_write : (nextOf (exec (.write 0x4#4 0xFFFF#16 0) (ready []))).map view =
    some (.selected, 0x40FFFF#24, 0, [.lo, .hi, .hi, .lo]) := by decide
/-- R104's example: CS_INIT = 0b11, every pin driven to its idle level. -/
theorem test_exec_init : (nextOf (exec .init State.reset)).map faultView =
    some (true, [true, true], 0#3, 0, [.hi, .hi, .hi, .lo]) := by decide

/-! ### Faults (95_test_vectors.md, section 2.3) -/

theorem test_fault_F1 : (nextOf (exec (.write 0x5#4 0x0000#16 0) State.reset)).map faultView =
    some (false, [false, false], 1#3, 0, [.z, .z, .z, .z]) := by decide
theorem test_fault_F6 : (nextOf (exec (.write 0x8#4 0x0000#16 1) (ready []))).map faultView =
    some (true, [true, true], 1#3, 0, [.hi, .hi, .hi, .lo]) := by decide
theorem test_fault_F9 : (nextOf (exec (.writeAndUpdate 0x8000#16 1) (idleState [true, false] true .noFault 0 []))).map
    faultView = some (true, [true, false], 3#3, 0, [.hi, .z, .hi, .lo]) := by decide
theorem test_fault_F10 : (nextOf (exec (.writeAndUpdate 0x8000#16 3) (idleState [true, true, true] true .noFault 0 []))).map
    faultView = some (true, [true, true, true], 3#3, 0, [.hi, .hi, .hi, .lo]) := by decide
theorem test_fault_F11 : (nextOf (exec (.write 0x5#4 0x0000#16 1) (idleState [true, false] true .noFault 0 []))).map
    faultView = some (true, [true, false], 1#3, 0, [.hi, .z, .hi, .lo]) := by decide
theorem test_fault_F12 : (nextOf (exec .init (ready []))).map faultView =
    some (true, [true, true], 4#3, 0, [.hi, .hi, .hi, .lo]) := by decide

/-! ### The sequencer (trace T1) and the observer -/

theorem test_T1_tick2 : view (selected.tick none) = (.transmitting, 0x400048#24, 0, [.lo, .hi, .lo, .lo]) ∧
    (selected.tick none).blk.bitCnt = 24#5 ∧
    (selected.tick none).obs.devs[0]? = some { sr := 0#24, cnt := 1 } := by decide
theorem test_T1_tick3 : view (low24.tick none) = (.transmitting, 0x800090#24, 0, [.lo, .hi, .hi, .hi]) ∧
    (low24.tick none).blk.bitCnt = 23#5 ∧ (low24.tick none).obs = low24.obs := by decide
theorem test_T1_tick4 : view (high23.tick none) = (.transmitting, 0x800090#24, 0, [.lo, .hi, .lo, .hi]) ∧
    (high23.tick none).obs.devs[0]? = some { sr := 1#24, cnt := 2 } := by decide
theorem test_T1_tick50 : view (high0.tick none) = (.idle, 0#24, 0, [.hi, .hi, .hi, .lo]) ∧
    (high0.tick none).obs.delivered = [{ line := 0, bits := 0x400048#24, count := 24 }] := by decide
/-- P4: with a pull-up the cut frame is recorded with five bits, f[4:0] = 0b00110, and free bits above them. -/
theorem test_P4_reset : (nextOf (step (midFrame true))).map faultView = some (false, [false, false], 0#3, 0, [.z, .z, .z, .z]) ∧
    (nextOf (step (midFrame true))).map (·.obs.delivered) =
      some [{ line := 0, bits := (Config.unreceivedBits 0 0 <<< 5) ||| 0b00110#24, count := 5 }] := by
  exact ⟨by decide, rfl⟩

/-! ### The end of a run (R72, R119, C10): script WRITE #0x5; INIT; RESET after its first tick -/

/-- FAULTED with a RESET line left: the run is not over, and the next step skips the INIT, which was never accepted. -/
def faultedRun : State := idleState [true, true] false .invalidOpcode 0 [.hold (.hostcmd initPorts), .reset]

theorem test_R119_not_over_before_reset : faultedRun.over = false ∧
    (nextOf (step faultedRun)).map (fun s => (s.host, s.skipped, s.over)) = some ([.reset], true, false) := by decide
theorem test_R119_not_over_after_reset :
    (nextOf (step { faultedRun with host := [.reset], skipped := true })).map (fun s => (s.host, s.blk.fault, s.over, s.final))
      = some ([], false, false, false) := by decide
/-- F14: FAULTED with no RESET line left, two commands never accepted: over, and not final. -/
theorem test_R119_over_in_faulted :
    (idleState [true, true] false .invalidOpcode 0 [.hold (.hostcmd initPorts), .wait]).over = true ∧
    (idleState [true, true] false .invalidOpcode 0 [.hold (.hostcmd initPorts), .wait]).final = false := by decide

/-! ### Witnesses: the hypotheses of every obligation are met together -/

theorem inv_idleState (cs : List Bool) (bus : Bool) (cause : Cause) (host : List HostLine) :
    (idleState cs bus cause 0 host).Inv :=
  ⟨⟨fun h => absurd rfl h, fun _ => ⟨rfl, rfl, rfl⟩, fun h => (by cases h), fun h => (by cases h), fun _ => rfl,
    (by cases bus <;> simp [idleState, Config.nCs, Config.csMask]), Nat.two_pow_pos _⟩,
   by simp [idleState, Config.nCs]⟩

theorem inv_ready (host : List HostLine) : (ready host).Inv := inv_idleState _ _ _ _

theorem inv_selected : selected.Inv :=
  ⟨⟨fun _ => ⟨rfl, rfl, by decide, rfl⟩, fun h => (by cases h), fun _ => ⟨rfl, rfl, by decide, by decide⟩,
    fun h => (by cases h), fun h => absurd rfl h, .inr ⟨rfl, rfl⟩, by decide⟩, rfl⟩

/-- A transmitting state on line 0 meets the invariant when its registers do. -/
theorem inv_transmitting (sh f : Frame) (cnt : BitVec 5) (sclk : Bool) (d : Device) (pull : Bool) (host : List HostLine)
    (hn : cnt.toNat ≤ 24) (h1 : frameRsvd f = 0#4) (h2 : validOpcode (frameOpcode f) = true)
    (h3 : sh = f <<< (24 - cnt.toNat)) (h4 : cnt = 24#5 → sclk = false) (h5 : sclk = false → cnt ≠ 0#5) :
    (busyState .transmitting sh cnt sclk d pull host).Inv :=
  ⟨⟨fun _ => ⟨rfl, rfl, by simp [busyState, Config.nCs], rfl⟩, fun h => (by cases h), fun h => (by cases h),
    fun _ => ⟨hn, ⟨f, ⟨h1, h2⟩, h3⟩, h4, h5⟩, fun h => absurd rfl h, .inr ⟨rfl, rfl⟩, Nat.two_pow_pos _⟩, rfl⟩

theorem inv_low24 : low24.Inv := inv_transmitting _ 0x400048#24 _ _ _ _ _ (by decide) (by decide) (by decide) (by decide)
  (by decide) (by decide)
theorem inv_high23 : high23.Inv := inv_transmitting _ 0x400048#24 _ _ _ _ _ (by decide) (by decide) (by decide) (by decide)
  (by decide) (by decide)
theorem inv_low1 : low1.Inv := inv_transmitting _ 0x400048#24 _ _ _ _ _ (by decide) (by decide) (by decide) (by decide)
  (by decide) (by decide)
theorem inv_high0 : high0.Inv := inv_transmitting _ 0x400048#24 _ _ _ _ _ (by decide) (by decide) (by decide) (by decide)
  (by decide) (by decide)
theorem inv_midFrame (pull : Bool) : (midFrame pull).Inv := inv_transmitting _ 0x30FFFF#24 _ _ _ _ _ (by decide) (by decide)
  (by decide) (by decide) (by decide) (by decide)

theorem carries_midFrame (pull : Bool) : (midFrame pull).carries 0x30FFFF#24 :=
  ⟨{ sr := 0x000006#24, cnt := 5 }, rfl, by cases pull <;> decide, rfl, by decide⟩

theorem carries_high0 : high0.carries 0x400048#24 :=
  ⟨{ sr := 0x400048#24, cnt := 24 }, rfl, by decide, by decide, by decide⟩

/-- DecodeInvertsEncode: the widest identifier of a one-bit port. -/
theorem witness_DecodeInvertsEncode : (Instr.writeControl controlRegVal 1).wellFormed 1 = true := by decide
theorem witness_EncodeInvertsDecodedFrame : decode 1 (.frame24 0x400048#24 1) = .ok (.writeControl 0x0048#16 1) := by rfl
/-- FrameDecodingHasThreeOutcomes: one frame for each outcome, with 19:16 = 1 and = 0 at the boundary. -/
theorem witness_FrameDecodingHasThreeOutcomes :
    (0xF10000#24).extractLsb' 16 4 ≠ 0#4 ∧
    ((0xE00000#24).extractLsb' 16 4 = 0#4 ∧ validOpcode ((0xE00000#24).extractLsb' 20 4) = false) ∧
    ((0xF00000#24).extractLsb' 16 4 = 0#4 ∧ validOpcode ((0xF00000#24).extractLsb' 20 4) = true ∧
      ∃ row ∈ catalogRows, (0xF00000#24).extractLsb' 20 4 = row.2) :=
  ⟨by decide, by decide, by decide, by decide, (.softwareFullReset, 0xF#4), by simp [catalogRows], by decide⟩
theorem witness_FrameLaws : frame 0x4#4 0x0048#16 = frame 4#4 72#16 ∧ (22 : Nat) < 23 := by decide
theorem witness_FrameBytesInWireOrder : decodeFrame 0x400048#24 0 = .ok (.writeControl 0x0048#16 0) := by rfl
theorem witness_PortsNameTheirOperation : 1 < 2 ^ Config.standard.selW := by decide
/-- StepRunsDecodedInstruction: a presented command, a held one accepted, one held while busy, and a placed word. -/
theorem witness_StepRunsDecodedInstruction :
    decode 1 (.frame24 0x400048#24 0) = .ok (.writeControl 0x0048#16 0) ∧
    (ready [.present (.frame24 0x400048#24 0)]).cfg.selW = 1 ∧ (ready []).blk.cmdReady = true ∧
    selected.blk.cmdReady = false ∧ selected.blk.fault = false ∧
    (idleState [true, true] true .doubleInit 0 [.hold (.frame24 0x400048#24 0)]).blk.cmdReady = false ∧
    decode State.reset.cfg.selW (tableCmd 24 0x400048) = .ok (.writeControl 0x0048#16 0) :=
  ⟨rfl, by decide, by decide, by decide, by decide, by decide, rfl⟩
/-- ScriptLinesTakeTheirTicks: busy, idle, and a FAULTED state whose script holds a RESET line. -/
theorem witness_ScriptLinesTakeTheirTicks :
    (selected.blk.phase ≠ .idle) ∧ (ready [.wait]).blk.phase = .idle ∧
    (idleState [true, true] true .doubleInit 0 [.hold (.hostcmd initPorts), .wait, .reset, .wait]).blk.faultCause ≠ .noFault ∧
    [HostLine.wait, .reset, .wait] = [.wait] ++ .reset :: [.wait] ∧ HostLine.reset ∉ [HostLine.wait] := by decide
/-- OnlyUnpresentableLinesAreRefused: a line the port carries, and a line with reserved bits, which is refused. -/
theorem witness_OnlyUnpresentableLinesAreRefused :
    (∀ c, ((ready [.hold (.frame24 0x400048#24 0)]).host.head? = some (.hold c) ∨
        (ready [.hold (.frame24 0x400048#24 0)]).host.head? = some (.present c)) →
      ∃ i, decode (ready [.hold (.frame24 0x400048#24 0)]).cfg.selW c = .ok i) ∧
    step (ready [.hold (.frame24 0x410048#24 0)]) = .refused (.notPresentable .reservedBits) :=
  ⟨fun c h => h.elim (fun h => (by cases h; exact ⟨.writeControl 0x0048#16 0, rfl⟩)) (fun h => (by cases h)), rfl⟩
theorem witness_InitInitialisesTheBus : State.reset.blk.cmdReady = true ∧ State.reset.blk.busInit = false ∧
    State.reset.cfg.hasLine 1 = true ∧ State.reset.cfg.hasLine 2 = false := by decide
theorem witness_SecondInitFaults : (ready []).blk.cmdReady = true ∧ (ready []).blk.busInit = true := by decide
/-- CatalogCommandsStartTheirFrames, WriteStartsItsTransaction, MnemonicAndRawFormsAgree: the first and the last line. -/
theorem witness_CatalogCommandsStartTheirFrames :
    (ready []).Inv ∧ (ready []).blk.cmdReady = true ∧ (ready []).blk.busInit = true ∧ (ready []).cfg.hasLine 0 = true ∧
    (ready []).cfg.hasLine 1 = true ∧ (ready []).obs.devs[0]? = some { sr := 0#24, cnt := 0 } ∧
    (ready []).obs.devs[1]? = some { sr := 0#24, cnt := 0 } ∧ (Instr.softwareFullReset, 0xF#4) ∈ catalogRows :=
  ⟨inv_ready _, by decide, by decide, by decide, by decide, rfl, rfl, by simp [catalogRows]⟩
theorem witness_WriteStartsItsTransaction :
    (ready []).Inv ∧ (ready []).blk.cmdReady = true ∧ (ready []).blk.busInit = true ∧ validOpcode 0xF#4 = true ∧
    (ready []).cfg.hasLine 1 = true ∧ (1 : Nat) ≠ 0 := ⟨inv_ready _, by decide, by decide, by decide, by decide, by decide⟩
/-- WriteOutcomeTable: each row, V = 0, then B = 0, then S = 0, then all one; and INIT with B = 0 and with B = 1. -/
theorem witness_WriteOutcomeTable :
    (ready []).Inv ∧ State.reset.Inv ∧ (ready []).blk.cmdReady = true ∧ State.reset.blk.cmdReady = true ∧
    validOpcode 0x5#4 = false ∧ (validOpcode 0x4#4 = true ∧ State.reset.blk.busInit = false) ∧
    ((ready []).blk.busInit = true ∧ (decide (2 < (ready []).cfg.nCs) && (ready []).blk.csInit.getD 2 false) = false) ∧
    (decide (1 < (ready []).cfg.nCs) && (ready []).blk.csInit.getD 1 false) = true :=
  ⟨inv_ready _, inv_idleState [true, true] false .noFault [], by decide, by decide, by decide, by decide, by decide, by decide⟩
theorem witness_MnemonicAndRawFormsAgree : (Instr.nop, 0x0#4) ∈ catalogRows := by simp [catalogRows]
theorem witness_InvalidOpcodeFault : State.reset.blk.cmdReady = true ∧ validOpcode 0x5#4 = false ∧
    validOpcode 0xE#4 = false := by decide
theorem witness_BusUninitFault : State.reset.blk.cmdReady = true ∧ State.reset.blk.busInit = false ∧
    validOpcode 0x0#4 = true := by decide
/-- SelUninitFault: an identifier beyond the last line, and a line outside CS_CFG. -/
theorem witness_SelUninitFault :
    ((ready []).blk.cmdReady = true ∧ (ready []).blk.busInit = true ∧ (ready []).cfg.nCs ≤ 2) ∧
    ((idleState [true, false] true .noFault 0 []).blk.cmdReady = true ∧
      (idleState [true, false] true .noFault 0 []).blk.busInit = true ∧
      (idleState [true, false] true .noFault 0 []).blk.csInit.getD 1 false = false) := by decide
theorem witness_FaultEntryMovesNothingElse :
    (ready []).Inv ∧ (ready []).blk.cmdReady = true ∧
    ∃ t, exec (.write 0x5#4 0x0000#16 0) (ready []) = .next t ∧ t.blk.fault = true :=
  ⟨inv_ready _, by decide, _, rfl, by decide⟩
theorem witness_FaultedIsInert :
    (idleState [true, true] true .doubleInit 0 []).Inv ∧
    (idleState [true, true] true .doubleInit 0 []).blk.faultCause ≠ .noFault ∧
    (idleState [true, true] true .doubleInit 0 []).host.head? ≠ some .reset ∧
    ∃ t, step (idleState [true, true] true .doubleInit 0 []) = .next t :=
  ⟨inv_idleState _ _ _ _, by decide, by decide, _, rfl⟩
/-- BusyBlockIgnoresThePort: busy, and FAULTED. -/
theorem witness_BusyBlockIgnoresThePort : selected.blk.cmdReady = false ∧
    (idleState [true, true] true .doubleInit 0 []).blk.cmdReady = false := by decide
theorem witness_SelectedTick : selected.Inv ∧ selected.blk.phase = .selected ∧
    selected.obs.devs[selected.blk.selReg]? = some { sr := 0#24, cnt := 0 } := ⟨inv_selected, rfl, rfl⟩
/-- RisingTick: the first rising tick, the last one, and a tick in which mosi changes. -/
theorem witness_RisingTick :
    (low24.Inv ∧ low24.blk.phase = .transmitting ∧ low24.blk.sclkReg = false) ∧
    (low1.Inv ∧ low1.blk.phase = .transmitting ∧ low1.blk.sclkReg = false ∧ low1.blk.bitCnt = 1#5) ∧
    (low24.tick none).blk.mosi ≠ low24.blk.mosi :=
  ⟨⟨inv_low24, rfl, rfl⟩, ⟨inv_low1, rfl, rfl, rfl⟩, by decide⟩
theorem witness_FallingTick : high23.Inv ∧ high23.blk.phase = .transmitting ∧ high23.blk.sclkReg = true ∧
    high23.blk.bitCnt ≠ 0#5 ∧ high23.obs.devs[high23.blk.selReg]? = some { sr := 0#24, cnt := 1 } ∧
    high23.blk.shReg = 0x400048#24 <<< (24 - high23.blk.bitCnt.toNat) := ⟨inv_high23, rfl, rfl, by decide, rfl, by decide⟩
theorem witness_ReleaseTick : high0.Inv ∧ high0.blk.phase = .transmitting ∧ high0.blk.sclkReg = true ∧
    high0.blk.bitCnt = 0#5 ∧ high0.obs.devs[high0.blk.selReg]? = some { sr := 0x400048#24, cnt := 24 } :=
  ⟨inv_high0, rfl, rfl, rfl, rfl⟩
/-- WriteTimeline and WriteDelivers, with k at both ends of its range. -/
theorem witness_WriteTimeline :
    (ready []).Inv ∧ (ready []).blk.cmdReady = true ∧ (ready []).blk.busInit = true ∧ validOpcode 0x4#4 = true ∧
    (ready []).cfg.hasLine 0 = true ∧ (List.replicate 49 (none : Option Ports)).length = 49 ∧ 1 ≤ 1 ∧ 24 ≤ 24 :=
  ⟨inv_ready _, by decide, by decide, by decide, by decide, rfl, by decide, by decide⟩
theorem witness_WriteDelivers :
    (ready []).Inv ∧ (ready []).blk.cmdReady = true ∧ (ready []).blk.busInit = true ∧ validOpcode 0xF#4 = true ∧
    (ready []).cfg.hasLine 1 = true ∧ (List.replicate 49 (some initPorts)).length = 49 ∧ 0 ≠ 1 ∧
    (ready []).cfg.hasLine 0 = true :=
  ⟨inv_ready _, by decide, by decide, by decide, by decide, rfl, by decide, by decide⟩
/-- ScriptsDeliverInOrder: two lines of P1 (after INIT). -/
theorem witness_ScriptsDeliverInOrder :
    let cmds : List (((Data → Nat → Instr) × Opcode) × Data × Nat) :=
      [((.softwareFullReset, 0xF#4), 0x0000#16, 0), ((.writeControl, 0x4#4), controlRegVal, 1)]
    let s := ready [.hold (.frame24 0xF00000#24 0), .hold (.frame24 0x400048#24 1)]
    s.Inv ∧ s.blk.cmdReady = true ∧ s.blk.busInit = true ∧
    (∀ x ∈ cmds, x.1 ∈ catalogRows ∧ s.cfg.hasLine x.2.2 = true) ∧
    s.host = cmds.map (fun x => HostLine.hold (encode (x.1.1 x.2.1 x.2.2))) :=
  ⟨inv_ready _, by decide, by decide, by simp [catalogRows, ready, idleState, Config.hasLine], rfl⟩
/-- BusyBlockCompletes: the longest wait and the shortest. -/
theorem witness_BusyBlockCompletes : (selected.Inv ∧ selected.blk.phase ≠ .idle) ∧ (high0.Inv ∧ high0.blk.phase ≠ .idle) :=
  ⟨⟨inv_selected, by decide⟩, inv_high0, by decide⟩
theorem witness_InvKeptByEveryStep : high23.Inv ∧ ∃ t, step high23 = .next t := ⟨inv_high23, _, rfl⟩
/-- ReachableStatesMeetTheInvariants: a state in SELECTED is reached in two ticks, a faulted one in one. -/
theorem witness_ReachableStatesMeetTheInvariants :
    (∃ s : State, s.reachable ∧ s.blk.phase = .selected ∧ s.blk.csN 0 = .lo) ∧
    (∃ s : State, s.reachable ∧ s.blk.faultCause ≠ .noFault) ∧ (∃ s : State, s.reachable ∧ s.blk.phase = .transmitting) :=
  ⟨⟨_, ⟨Config.standard, [.hold (.hostcmd initPorts), .hold (.frame24 0x400048#24 0)], 2, rfl⟩, rfl, by decide⟩,
   ⟨_, ⟨Config.standard, [.hold (.frame24 0x308000#24 0)], 1, rfl⟩, by decide⟩,
   ⟨_, ⟨Config.standard, [.hold (.hostcmd initPorts), .hold (.frame24 0x400048#24 0)], 3, rfl⟩, rfl⟩⟩
theorem witness_AtMostOneLineLow : selected.blk.csN 0 = .lo ∧ (selected.tick none).blk.csN 0 = .lo ∧
    ((ready []).tick (some (writePorts 0x4#4 0x0048#16 1))).blk.selReg ≠ (ready []).blk.selReg := by decide
theorem witness_PulsesNeverOverlap : (ready []).Inv ∧ (ready []).blk.csN 1 ≠ .lo ∧
    ((ready []).tick (some (writePorts 0x4#4 0x0048#16 1))).blk.csN 1 = .lo ∧ (ready []).cfg.hasLine 0 = true :=
  ⟨inv_ready _, by decide, by decide, by decide⟩
/-- WholeFramesOnly: the step that records a frame. -/
theorem witness_WholeFramesOnly : high0.Inv ∧ high0.wireInv ∧ high0.wholeFrames ∧ ¬ high0.cutsFrame ∧
    ∃ t, step high0 = .next t ∧ t.obs.delivered ≠ [] :=
  ⟨inv_high0, fun _ => ⟨0x400048#24, ⟨by decide, by decide⟩, carries_high0⟩, fun r hr => (by cases hr),
   fun h => (by cases h.1), _, rfl, by decide⟩
theorem witness_RecordsOnlyGrow : ∃ t, step high0 = .next t ∧ t.obs.delivered ≠ high0.obs.delivered := ⟨_, rfl, by decide⟩
/-- ModeTransitions: a state of each kind, and the two steps that leave a mode other than UNINIT for UNINIT or leave
FAULTED. -/
theorem witness_ModeTransitions :
    (State.reset.Inv ∧ State.reset.blk.mode = .uninit) ∧ ((ready []).Inv ∧ (ready []).blk.mode = .ready ∧
      (ready []).blk.phase = .idle) ∧ (selected.Inv ∧ selected.blk.mode = .ready ∧ selected.blk.phase ≠ .idle) ∧
    (high0.Inv ∧ high0.blk.mode = .ready ∧ high0.blk.phase ≠ .idle) ∧
    ((idleState [true, true] true .doubleInit 0 [.reset]).Inv ∧
      (idleState [true, true] true .doubleInit 0 [.reset]).blk.mode = .faulted ∧
      (idleState [true, true] true .doubleInit 0 [.reset]).host.head? = some .reset ∧
      ∃ t, step (idleState [true, true] true .doubleInit 0 [.reset]) = .next t ∧ t.blk.mode = .uninit) ∧
    Instr.write 0x5#4 0#16 0 ≠ .init :=
  ⟨⟨inv_idleState [true, true] false .noFault [], by decide⟩, ⟨inv_ready _, by decide, rfl⟩,
   ⟨inv_selected, by decide, by decide⟩, ⟨inv_high0, by decide, by decide⟩,
   ⟨inv_idleState _ _ _ _, by decide, rfl, _, rfl, by decide⟩, by decide⟩
/-- ModesAndPins: a state of each mode, and FAULTED both with the bus driven and without. -/
theorem witness_ModesAndPins :
    (State.reset.Inv ∧ State.reset.blk.mode = .uninit) ∧ ((ready []).Inv ∧ (ready []).blk.mode = .ready) ∧
    ((idleState [true, false] true .selUninit 0 []).Inv ∧ (idleState [true, false] true .selUninit 0 []).blk.mode = .faulted) ∧
    ((idleState [true, true] false .busUninit 0 []).Inv ∧ (idleState [true, true] false .busUninit 0 []).blk.mode = .faulted) :=
  ⟨⟨inv_idleState [true, true] false .noFault [], by decide⟩, ⟨inv_ready _, by decide⟩, ⟨inv_idleState _ _ _ _, by decide⟩,
   inv_idleState _ _ _ _, by decide⟩
/-- OverRunsStayOver: over and final with lines left, over in FAULTED with a command left, FAULTED with a RESET line, busy, a
command left, a skipped command, and the step that skips. -/
theorem witness_OverRunsStayOver :
    ((ready [.idle 3, .reset]).over = true ∧ (ready [.idle 3, .reset]).final = true ∧
      ∃ t, step (ready [.idle 3, .reset]) = .next t) ∧
    ((idleState [true, true] true .doubleInit 0 [.hold (.hostcmd initPorts)]).over = true ∧
      ∃ t, step (idleState [true, true] true .doubleInit 0 [.hold (.hostcmd initPorts)]) = .next t) ∧
    (faultedRun.blk.faultCause ≠ .noFault ∧ HostLine.reset ∈ faultedRun.host) ∧ high0.blk.phase ≠ .idle ∧
    ((ready []).blk.faultCause = .noFault ∧
      HostLine.hold (.hostcmd initPorts) ∈ (ready [.hold (.hostcmd initPorts)]).host ∧
      HostLine.present (.hostcmd initPorts) ∈ (ready [.present (.hostcmd initPorts)]).host) ∧
    (({ ready [] with skipped := true } : State).blk.faultCause = .noFault ∧
      ∃ t, step { ready [] with skipped := true } = .next t) ∧
    (faultedRun.skipped = false ∧ ∃ t, step faultedRun = .next t ∧ t.skipped = true) :=
  ⟨⟨by decide, by decide, _, rfl⟩, ⟨by decide, _, rfl⟩, by decide, by decide, by decide, ⟨by decide, _, rfl⟩, rfl, _, rfl, rfl⟩
/-- ResetFromAnyState: in mid-frame, and idle. -/
theorem witness_ResetFromAnyState : (midFrame true).host = [.reset] ∧ (ready [.reset, .wait]).host = [.reset, .wait] ∧
    (ready [.reset, .wait]).blk.phase = .idle := by decide
/-- ResetInMidFrameRecordsThePart: P4 with the pull-up and without. -/
theorem witness_ResetInMidFrameRecordsThePart (pull : Bool) :
    (midFrame pull).Inv ∧ (midFrame pull).host = [.reset] ∧ (midFrame pull).blk.phase ≠ .idle ∧
    (midFrame pull).carries 0x30FFFF#24 ∧
    (midFrame pull).obs.devs[(midFrame pull).blk.selReg]? = some { sr := 0x000006#24, cnt := 5 } ∧
    (midFrame pull).cfg.pulledUp (midFrame pull).blk.selReg = pull :=
  ⟨inv_midFrame pull, rfl, by simp [midFrame, busyState], carries_midFrame pull, rfl, rfl⟩
/-- ResetInMidFrameRecordsThePart at the ends of n's range: n = 24, after the last sampling edge, and n = 0, in SELECTED. -/
theorem witness_ResetInMidFrame_24_and_0 :
    (let s := busyState .transmitting 0x000000#24 1#5 false { sr := 0x400048#24, cnt := 24 } true [.reset]
     s.Inv ∧ s.host = [.reset] ∧ s.blk.phase ≠ .idle ∧ s.carries 0x400048#24 ∧
      s.obs.devs[s.blk.selReg]? = some { sr := 0x400048#24, cnt := 24 } ∧ s.cfg.pulledUp s.blk.selReg = true) ∧
    (let s := busyState .selected 0x400048#24 24#5 true { sr := 0xABCDEF#24, cnt := 0 } true [.reset]
     s.Inv ∧ s.host = [.reset] ∧ s.blk.phase ≠ .idle ∧ s.carries 0x400048#24 ∧
      s.obs.devs[s.blk.selReg]? = some { sr := 0xABCDEF#24, cnt := 0 } ∧ s.cfg.pulledUp s.blk.selReg = true) :=
  ⟨⟨⟨inv_low1.block, rfl⟩, rfl, by decide, ⟨_, rfl, by decide, by decide, by decide⟩, rfl, rfl⟩,
   ⟨inv_selected.block, rfl⟩, rfl, by decide, ⟨_, rfl, by decide, by decide, by decide⟩, rfl, rfl⟩
/-- InitFromReset: the state right after INIT, and one whose last WRITE went to line 1. -/
theorem witness_InitFromReset : Config.standard.hasLine 0 = true ∧ validOpcode 0x0#4 = true ∧
    Config.standard.hasLine 1 = true ∧ (List.replicate 49 (none : Option Ports)).length = 49 ∧
    ∃ t, exec .init (State.start Config.standard []) = .next t ∧ (ready []).blk = { t.blk with selReg := 0 } ∧
      (idleState [true, true] true .noFault 1 []).blk = { t.blk with selReg := 1 } ∧
      (idleState [true, true] true .noFault 1 []).cfg = Config.standard :=
  ⟨by decide, by decide, by decide, by decide, _, rfl, rfl, rfl, rfl⟩
theorem witness_EveryOpeningButInitFaults : Instr.nop 0#16 0 ≠ .init := by decide
/-- PinsFollowTheRegisters: the low line, the other line, an undriven line, and the idle bus. -/
theorem witness_PinsFollowTheRegisters :
    (selected.blk.csInit.getD 0 false = true ∧ selected.blk.phase ≠ .idle ∧ selected.blk.selReg = 0) ∧
    (selected.blk.csInit.getD 1 false = true ∧ selected.blk.selReg ≠ 1) ∧ State.reset.blk.csInit.getD 0 false = false ∧
    State.reset.blk.busInit = false ∧ ((ready []).Inv ∧ (ready []).blk.busInit = true ∧ (ready []).blk.phase = .idle ∧
      (ready []).cfg.hasLine 1 = true) :=
  ⟨by decide, by decide, by decide, by decide, inv_ready _, by decide, by decide, by decide⟩
theorem witness_IdleTickChangesNothing : (ready []).blk.phase = .idle ∧ (ready []).host = [] := by decide

end Sys2Proof.Tests
end

section
/-! SUPPORT. The invariant of R33 along the block's tick, a pulse of reset, a step and a run: each operation keeps it, and
so every reachable state meets it. -/

namespace Sys2Proof.Machine

variable {cfg : Config} {b : Block} {s t : State}

/-! ### The registers -/

/-- BITCNT counts down without wrapping while it is not 0 (R14). -/
theorem bitCnt_pred_toNat {n : BitVec 5} (h : n ≠ 0#5) : (n - 1#5).toNat = n.toNat - 1 := by bv_omega

/-- A catalog opcode and any data assemble to a frame of this block (R63, R66). -/
theorem ourFrame_frame {op : Opcode} (data : Data) (h : validOpcode op = true) : ourFrame (frame op data) :=
  ⟨frameRsvd_frame op data, by rw [frameOpcode_frame]; exact h⟩

/-- A frame of this block is assembled from a catalog opcode and some data (R63 item 4). -/
theorem ourFrame.exists_frame {f : Frame} (h : ourFrame f) :
    ∃ op data, validOpcode op = true ∧ f = frame op data :=
  ⟨frameOpcode f, frameData f, h.2, (frame_of_fields h.1).symm⟩

/-- In IDLE the invariant asks only for the idle values, the lines and SELREG's width. -/
theorem Block.inv_of_idle (hp : b.phase = .idle) (hi : b.shReg = 0#24 ∧ b.bitCnt = 0#5 ∧ b.sclkReg = true)
    (hl : (b.busInit = false ∧ b.csInit = List.replicate cfg.nCs false) ∨ (b.busInit = true ∧ b.csInit = cfg.csMask))
    (hw : b.selReg < 2 ^ cfg.selW) : b.Inv cfg where
  active h := absurd hp h
  idle _ := hi
  selected h := by simp [hp] at h
  transmitting h := by simp [hp] at h
  faulted _ := hp
  lines := hl
  selWidth := hw

/-- The registers' reset values (R32) meet the invariant. -/
theorem Block.inv_reset (cfg : Config) : (Block.reset cfg).Inv cfg :=
  Block.inv_of_idle rfl ⟨rfl, rfl, rfl⟩ (.inl ⟨rfl, rfl⟩) (Nat.two_pow_pos _)

/-- The start of a transaction, from IDLE on a configured line, keeps the invariant (R106). -/
theorem Block.Inv.startWrite (h : b.Inv cfg) (hp : b.phase = .idle) (hf : b.faultCause = .noFault) {op : Opcode}
    (data : Data) {sel : Nat} (hv : validOpcode op = true) (hb : b.busInit = true) (hs : b.lineReady cfg sel = true) :
    (b.startWrite op data sel).Inv cfg where
  active _ := ⟨hb, hf, (b.lineReady_iff cfg sel).1 hs⟩
  idle h := by simp at h
  selected _ := ⟨rfl, (h.idle hp).2.2, ourFrame_frame data hv⟩
  transmitting h := by simp at h
  faulted h := absurd hf h
  lines := h.lines
  selWidth := Nat.lt_of_lt_of_le ((b.lineReady_iff cfg sel).1 hs).1 cfg.nCs_le_two_pow_selW

/-- Accepting a command keeps the invariant: a fault, an INIT or the start of a transaction (R103). -/
theorem Block.Inv.accept (h : b.Inv cfg) (hp : b.phase = .idle) (hf : b.faultCause = .noFault) (p : Ports) :
    (b.accept cfg p).Inv cfg := by
  obtain ⟨hsh, hcnt, hsclk⟩ := h.idle hp
  obtain ⟨x, -, ha⟩ | ⟨-, ha⟩ | ⟨hv, hb, hs, ha⟩ := b.accept_cases cfg p
  · rw [ha]
    exact Block.inv_of_idle hp ⟨hsh, hcnt, hsclk⟩ h.lines h.selWidth
  · rw [ha]
    exact Block.inv_of_idle hp ⟨rfl, hcnt, rfl⟩ (.inr ⟨rfl, rfl⟩) h.selWidth
  · rw [ha]
    exact h.startWrite hp hf p.data hv hb hs

/-- A block that goes on with its transaction, in TRANSMITTING, meets the invariant when item 4 holds of it. -/
theorem Block.Inv.transmitting_of_busy (h : b.Inv cfg) (hp : b.phase ≠ .idle) {sh : Frame} {n : BitVec 5} {clk : Bool}
    (ht : n.toNat ≤ 24 ∧ (∃ f, ourFrame f ∧ sh = f <<< (24 - n.toNat)) ∧
      (n = 24#5 → clk = false) ∧ (clk = false → n ≠ 0#5)) :
    ({ b with phase := .transmitting, shReg := sh, bitCnt := n, sclkReg := clk } : Block).Inv cfg where
  active _ := h.active hp
  idle h := by cases h
  selected h := by cases h
  transmitting _ := ht
  faulted hf := absurd (h.active hp).2.1 hf
  lines := h.lines
  selWidth := h.selWidth

/-- SHREG's shift and BITCNT's count in a rising tick keep step with each other (R108), as item 4 needs. -/
theorem shiftLeft_bitCnt_pred {n : BitVec 5} (f : Frame) (hn : n.toNat ≤ 24) (h0 : n ≠ 0#5) :
    f <<< (24 - n.toNat) <<< 1 = f <<< (24 - (n - 1#5).toNat) := by
  have hpos : n.toNat ≠ 0 := fun h => h0 (BitVec.eq_of_toNat_eq h)
  rw [← BitVec.shiftLeft_add, bitCnt_pred_toNat h0]
  congr 1
  omega

/-- At the end of a transmission, when BITCNT is 0, SHREG has no bit of the frame left (R63 item 5, R110). -/
theorem shReg_eq_zero_of_sent {n : BitVec 5} {sh : Frame} (hn : n = 0#5) (h : ∃ f, ourFrame f ∧ sh = f <<< (24 - n.toNat)) :
    sh = 0#24 := by
  obtain ⟨f, -, rfl⟩ := h
  subst hn
  exact BitVec.shiftLeft_eq_zero (by decide)

/-- Every tick of the block, whatever is on the port, keeps the invariant (R101). -/
theorem Block.Inv.tick (h : b.Inv cfg) (c : Option Ports) : (b.tick cfg c).Inv cfg := by
  obtain ⟨-, ht⟩ | ⟨-, -, -, ht⟩ | ⟨hf, hp, p, -, ht⟩ | ⟨hf, hp, ht⟩ | ⟨hf, hp, hs, ht⟩ | ⟨hf, hp, hs, hn, ht⟩ |
    ⟨hf, hp, hs, hn, ht⟩ := b.tick_cases cfg c <;> rw [ht]
  · exact h
  · exact h
  · exact h.accept hp hf p
  · obtain ⟨hcnt, -, hours⟩ := h.selected hp
    exact h.transmitting_of_busy (by simp [hp]) ⟨by simp [hcnt], ⟨b.shReg, hours, by simp [hcnt]⟩, by simp, by simp [hcnt]⟩
  · obtain ⟨hle, ⟨f, hours, hsh⟩, -, h0⟩ := h.transmitting hp
    have hn := bitCnt_pred_toNat (h0 hs)
    have hne : b.bitCnt - 1#5 ≠ 24#5 := fun h24 => by
      rw [h24, BitVec.toNat_ofNat] at hn
      omega
    have hnext := h.transmitting_of_busy (sh := b.shReg <<< 1) (n := b.bitCnt - 1#5) (clk := true) (by simp [hp])
      ⟨by omega, ⟨f, hours, by rw [hsh, shiftLeft_bitCnt_pred f hle (h0 hs)]⟩, fun h24 => absurd h24 hne, by simp⟩
    rwa [← hp] at hnext
  · obtain ⟨hle, hours, -, -⟩ := h.transmitting hp
    have hnext := h.transmitting_of_busy (clk := false) (by simp [hp]) ⟨hle, hours, fun _ => rfl, fun _ => hn⟩
    rwa [← hp] at hnext
  · obtain ⟨-, hours, -, -⟩ := h.transmitting hp
    exact Block.inv_of_idle rfl ⟨shReg_eq_zero_of_sent hn hours, hn, hs⟩ h.lines h.selWidth

/-! ### The machine -/

/-- The invariant reads the platform, the block and the observer, and nothing of the host. -/
theorem State.Inv.of_host (h : s.Inv) (hc : t.cfg = s.cfg) (hb : t.blk = s.blk) (ho : t.obs = s.obs) : t.Inv :=
  ⟨by rw [hc, hb]; exact h.block, by rw [hc, ho]; exact h.devs⟩

theorem State.Inv.tick (h : s.Inv) (c : Option Ports) : (s.tick c).Inv :=
  ⟨h.block.tick c, by rw [State.tick_obs, observe_devs_length]; exact h.devs⟩

theorem State.Inv.resetPulse (h : s.Inv) : s.resetPulse.Inv :=
  ⟨Block.inv_reset s.cfg, by rw [State.resetPulse_obs, observe_devs_length]; exact h.devs⟩

theorem State.Inv.step (h : s.Inv) (hs : step s = .next t) : t.Inv := by
  have hhost (rest : List HostLine) : (s.withHost rest).Inv := h.of_host rfl rfl rfl
  obtain ⟨rest, rfl⟩ | ⟨_, rest, -, -, -, rfl⟩ | ⟨rest, -, rfl⟩ | ⟨rest, c, rfl, -⟩ := step_cases s t hs
  · exact hhost rest
  · exact h.of_host rfl rfl rfl
  · exact (hhost rest).resetPulse
  · exact (hhost rest).tick c

theorem State.inv_start (cfg : Config) (host : List HostLine) : (State.start cfg host).Inv :=
  ⟨Block.inv_reset cfg, by simp [Observer.start]⟩

/-- What every step keeps holds at the end of every run. -/
theorem run_induction {P : State → Prop} (hstep : ∀ s t, P s → step s = .next t → P t) (k : Nat) (hs : P s)
    (h : core.run k s = .next t) : P t := by
  induction k generalizing s with
  | zero =>
    cases h
    exact hs
  | succ k ih =>
    cases hx : step s with
    | next u => exact ih (hstep s u hs hx) (by simpa [Host.Core.run, core, hx] using h)
    | fault r => cases r
    | refused r => simp [Host.Core.run, core, hx] at h

theorem State.Inv.of_reachable (h : s.reachable) : s.Inv := by
  obtain ⟨cfg, host, k, hk⟩ := h
  exact run_induction (fun _ _ hs => hs.step) k (State.inv_start cfg host) hk

/-- Settles O34: every kind of step keeps the invariant (State.Inv.step). -/
theorem invKeptByEveryStep : Obligations.InvKeptByEveryStep := fun _ _ => State.Inv.step

/-- Settles O35: the reset values meet the invariant (Block.inv_reset). -/
theorem invAfterReset : Obligations.InvAfterReset := ⟨State.inv_start _ _, State.inv_start⟩

end Sys2Proof.Machine
end

section
/-! SUPPORT. What the invariant says of every reachable state in the spec's own words (R33), the pins and the status port
as functions of the registers (R22, R25 to R28), and the reset values (R32). -/

namespace Sys2Proof.Machine

variable {cfg : Config} {b : Block} {s t : State}

/-- Item 5 of R33: the low line is SELREG's. -/
theorem Block.csN_lo_unique {i j : Nat} (hi : b.csN i = .lo) (hj : b.csN j = .lo) : i = j := by
  obtain ⟨-, -, rfl⟩ := (b.csN_eq_lo_iff i).1 hi
  exact ((b.csN_eq_lo_iff j).1 hj).2.2

/-- With the bus initialised CS_INIT is mask(CS_CFG) (R33 item 7). -/
theorem Block.Inv.csInit_eq (h : b.Inv cfg) (hb : b.busInit = true) : b.csInit = cfg.csMask := by
  obtain ⟨h0, -⟩ | ⟨-, h1⟩ := h.lines
  · simp [hb] at h0
  · exact h1

/-- With the bus initialised a line is configured exactly when it is in CS_CFG (R104). -/
theorem Block.Inv.csInit_getD (h : b.Inv cfg) (hb : b.busInit = true) (i : Nat) :
    b.csInit.getD i false = cfg.hasLine i := by
  rw [h.csInit_eq hb, Config.csMask_getD]

/-- Settles O36: State.Inv holds of every reachable state, and its clauses are the items of R33. -/
theorem reachableStatesMeetTheInvariants : Obligations.ReachableStatesMeetTheInvariants := by
  intro s hs
  have h := (State.Inv.of_reachable hs).block
  refine ⟨h.active, h.idle, h.selected, fun hp => ?_, fun _ _ => Block.csN_lo_unique,
    fun hp i => s.blk.csN_ne_lo_of_idle i hp, h.faulted, h.lines.imp_left fun ⟨hb, hcs⟩ => ⟨hb, fun i => ?_⟩⟩
  · obtain ⟨hle, ⟨f, hours, hsh⟩, hclk, -⟩ := h.transmitting hp
    obtain ⟨op, data, hv, rfl⟩ := hours.exists_frame
    exact ⟨hle, ⟨op, data, hv, hsh⟩, hclk⟩
  · rw [hcs, List.getD_eq_getElem?_getD, List.getElem?_getD_replicate_default_eq]

/-- Settles O49: the pins by the conditions of R26 to R28, and the idle bus by item 2 of the invariant. -/
theorem pinsFollowTheRegisters : Obligations.PinsFollowTheRegisters := by
  refine ⟨fun b i => ⟨(b.csN_eq_z_iff i).2, b.csN_eq_lo i, fun hc h => ?_⟩, fun b => ⟨fun hb => ?_, fun hb => ?_⟩,
    fun s hinv hb hp => ⟨fun i hi => ?_, ?_⟩⟩
  · exact h.elim (b.csN_eq_hi_of_idle i hc) (b.csN_eq_hi_of_other i hc)
  · simp [Block.sclk, Block.mosi, hb]
  · exact ⟨b.sclk_eq hb, by rw [b.mosi_eq hb, BitVec.msb_eq_getLsbD_last]⟩
  · exact s.blk.csN_eq_hi_of_idle i (by rw [hinv.block.csInit_getD hb, hi]) hp
  · rw [s.blk.mosi_eq hb, (hinv.block.idle hp).1]
    rfl

/-- Settles O50: the three flags are their conditions on PHASE and FAULT_CAUSE, at reset IDLE and no fault. -/
theorem statusPort : Obligations.StatusPort :=
  ⟨fun b => ⟨b.busy_iff, b.fault_iff, b.cmdReady_iff, rfl⟩, rfl, rfl, rfl⟩

/-- Settles O44: the reset values by definition; no line is configured, so every chip select is undriven. -/
theorem resetState : Obligations.ResetState :=
  ⟨fun cfg => ⟨rfl, fun i => Block.csN_reset i cfg, Block.sclk_reset cfg, Block.mosi_reset cfg, rfl, rfl, rfl, rfl, rfl⟩,
    rfl, rfl⟩

/-- Settles O40: PHASE is IDLE and DELIVERED is empty after reset. -/
theorem wholeFramesAfterReset : Obligations.WholeFramesAfterReset :=
  fun _ _ => ⟨fun hbusy => absurd rfl hbusy, fun _ hr => by cases hr⟩

end Sys2Proof.Machine
end

section
/-! SUPPORT. What a step leaves of the records and the configuration (R34, R53), and when it answers a next state: one
equation of `step` for each answer of `fetch`. -/

namespace Sys2Proof.Machine

variable {s t u : State} {c : HostCmd}

/-- Settles O41: a host line leaves the observer, and a tick or a reset pulse lets it append (observe_delivered_prefix). -/
theorem recordsOnlyGrow : Obligations.RecordsOnlyGrow := by
  intro s t hs
  obtain ⟨_, rfl⟩ | ⟨_, _, -, -, -, rfl⟩ | ⟨_, -, rfl⟩ | ⟨_, _, rfl, -⟩ := step_cases s t hs
  · exact ⟨List.prefix_rfl, rfl⟩
  · exact ⟨List.prefix_rfl, rfl⟩
  · exact ⟨observe_delivered_prefix _ _ _ _, rfl⟩
  · exact ⟨observe_delivered_prefix _ _ _ _, rfl⟩

theorem step_of_moved (h : fetch s = .moved u) : step s = .next u := by simp [step, h]

theorem step_of_quiet (h : fetch s = .quiet u) : step s = .next (u.tick none) := by simp [step, h]

theorem step_of_decoded {i : Instr} (h : fetch s = .command c u) (hd : decode u.cfg.selW c = .ok i) :
    step s = .next (u.tick (some (portsOf i))) := by simp [step, h, hd, exec_eq_tick]

theorem step_of_rejected {why : Reject} (h : fetch s = .command c u) (hd : decode u.cfg.selW c = .error why) :
    step s = .refused (.notPresentable why) := by simp [step, h, hd]

/-- A command on the port is that of the script's next line, and the platform is as before (R72). -/
theorem fetch_command (h : fetch s = .command c u) :
    u.cfg = s.cfg ∧ (s.host.head? = some (.hold c) ∨ s.host.head? = some (.present c)) := by
  unfold fetch at h
  cases hh : s.host with
  | nil =>
    rw [hh] at h
    cases h
  | cons l rest =>
    rw [hh] at h
    cases l with
    | hold c' =>
      simp only at h
      split at h
      · cases h
      · split at h <;> cases h <;> exact ⟨rfl, .inl rfl⟩
    | present c' =>
      cases h
      exact ⟨rfl, .inr rfl⟩
    | wait =>
      simp only at h
      split at h <;> cases h
    | idle n => cases n <;> cases h
    | reset => cases h

/-- A step answers a next state, or refuses the command of the script's next line for the decoder's reason (R24). -/
theorem step_next_or_rejected (s : State) :
    (∃ t, step s = .next t) ∨
    ∃ c why, (s.host.head? = some (.hold c) ∨ s.host.head? = some (.present c)) ∧
      decode s.cfg.selW c = .error why ∧ step s = .refused (.notPresentable why) := by
  cases hf : fetch s with
  | moved u => exact .inl ⟨_, step_of_moved hf⟩
  | quiet u => exact .inl ⟨_, step_of_quiet hf⟩
  | command c u =>
    obtain ⟨hcfg, hline⟩ := fetch_command hf
    cases hd : decode u.cfg.selW c with
    | ok i => exact .inl ⟨_, step_of_decoded hf hd⟩
    | error why => exact .inr ⟨c, why, hline, by rw [← hcfg, hd], step_of_rejected hf hd⟩

/-- Settles O12: the two answers of a step (step_next_or_rejected) exclude each other. -/
theorem onlyUnpresentableLinesAreRefused : Obligations.OnlyUnpresentableLinesAreRefused := by
  intro s
  obtain ⟨t, ht⟩ | ⟨c, why, hline, hd, hstep⟩ := step_next_or_rejected s
  · exact ⟨fun _ => ⟨t, ht⟩, fun r hr => by simp [ht] at hr⟩
  · refine ⟨fun hok => ?_, fun r hr => ⟨c, why, hline, hd, by simpa [hstep] using hr.symm⟩⟩
    obtain ⟨i, hi⟩ := hok c hline
    simp [hd] at hi

end Sys2Proof.Machine
end

section
/-! SUPPORT. The registers through a whole transaction (R106 to R111), whatever the host presents in it, and the state after
INIT to which every completed WRITE returns (R165). -/

namespace Sys2Proof.Machine

variable {s : State}

/-- With the clock high and m bits left to send, 2m + 1 ticks shift them out and release the line (R108 to R110). -/
theorem State.ticks_blk_of_clock_high (m : Nat) {ins : List (Option Ports)} (hp : s.blk.phase = .transmitting)
    (hf : s.blk.faultCause = .noFault) (hs : s.blk.sclkReg = true) (hm : s.blk.bitCnt.toNat = m)
    (hlen : ins.length = 2 * m + 1) :
    (s.ticks ins).blk = { s.blk with phase := .idle, shReg := s.blk.shReg <<< m, bitCnt := 0#5 } := by
  induction m generalizing s ins with
  | zero =>
    obtain ⟨c, rfl⟩ := List.length_eq_one_iff.1 hlen
    have h0 : s.blk.bitCnt = 0#5 := BitVec.eq_of_toNat_eq hm
    simp [s.blk.tick_release s.cfg c hp hf hs h0, h0]
  | succ m ih =>
    match ins, hlen with
    | c :: c' :: rest, hlen =>
      have hn : s.blk.bitCnt ≠ 0#5 := fun h0 => by simp [h0] at hm
      have hfall : (s.tick c).blk = { s.blk with sclkReg := false } := s.blk.tick_falling s.cfg c hp hf hs hn
      have hrise : ((s.tick c).tick c').blk =
          { s.blk with shReg := s.blk.shReg <<< 1, bitCnt := s.blk.bitCnt - 1#5 } := by
        rw [State.tick_blk, Block.tick_rising _ _ c' (by rw [hfall]; exact hp) (by rw [hfall]; exact hf) (by rw [hfall])]
        simp only [hfall, hs]
      have hcnt : ((s.tick c).tick c').blk.bitCnt.toNat = m := by
        rw [hrise]
        simp [bitCnt_pred_toNat hn, hm]
      rw [State.ticks_cons, State.ticks_cons, ih (by rw [hrise]; exact hp) (by rw [hrise]; exact hf)
        (by rw [hrise]; exact hs) hcnt (by simp at hlen; omega), hrise]
      simp only [← BitVec.shiftLeft_add, Nat.add_comm 1 m]

/-- A WRITE accepted by an idle block is complete after 50 ticks: the registers are as before but for SELREG (R111). -/
theorem State.ticks_blk_of_write {op : Opcode} {sel : Nat} {ins : List (Option Ports)} (data : Data)
    (hp : s.blk.phase = .idle) (hf : s.blk.faultCause = .noFault)
    (hi : s.blk.shReg = 0#24 ∧ s.blk.bitCnt = 0#5 ∧ s.blk.sclkReg = true) (hb : s.blk.busInit = true)
    (hv : validOpcode op = true) (hl : s.blk.lineReady s.cfg sel = true) (hlen : ins.length = 49) :
    (s.ticks (some (writePorts op data sel) :: ins)).blk = { s.blk with selReg := sel } := by
  obtain ⟨hsh, hcnt, hs⟩ := hi
  match ins, hlen with
  | c :: c' :: rest, hlen =>
    have hstart : (s.tick (some (writePorts op data sel))).blk = s.blk.startWrite op data sel := by
      rw [State.tick_blk, s.blk.tick_ready s.cfg hp hf, Block.accept_write, s.blk.doWrite_start _ _ _ _ hv hb hl]
    have hfirst : (((s.tick (some (writePorts op data sel))).tick c).tick c').blk =
        { s.blk with phase := .transmitting, shReg := frame op data <<< 1, bitCnt := 23#5, selReg := sel } := by
      rw [State.tick_blk, State.tick_blk, hstart, Block.tick_selected _ (s.blk.startWrite op data sel) c rfl hf,
        Block.tick_rising]
      · simp [Block.startWrite, hs]
      · rfl
      · exact hf
      · rfl
    rw [State.ticks_cons, State.ticks_cons, State.ticks_cons, State.ticks_blk_of_clock_high 23 (by rw [hfirst])
      (by rw [hfirst]; exact hf) (by rw [hfirst]; exact hs) (by rw [hfirst]; rfl) (by simpa using hlen), hfirst]
    have hout : frame op data <<< 1 <<< 23 = 0#24 := by
      rw [← BitVec.shiftLeft_add, BitVec.shiftLeft_eq_zero (by decide)]
    simp only [hout, ← hp, ← hsh, ← hcnt]

/-- INIT right after reset writes its four registers (R104). -/
theorem State.start_tick_init_blk (cfg : Config) (host : List HostLine) :
    ((State.start cfg host).tick (some initPorts)).blk =
      { busInit := true, csInit := cfg.csMask, faultCause := .noFault, phase := .idle, shReg := 0#24, bitCnt := 0#5,
        selReg := 0, sclkReg := true } := by
  rw [State.tick_blk, State.start_blk, Block.tick_ready _ _ rfl rfl, Block.accept_init, Block.doInit_of_uninit _ _ rfl]
  rfl

/-- Settles O47: the tick of INIT (start_tick_init_blk), and the 50 ticks of a WRITE (ticks_blk_of_write), which do not
read the SELREG they start from. -/
theorem initFromReset : Obligations.InitFromReset := by
  intro cfg host
  have ht := State.start_tick_init_blk cfg host
  refine ⟨_, exec_eq_tick _ .init, ht, fun i hi => ?_, ?_, ?_, ?_, ?_⟩ <;>
    simp only [portsOf, ht]
  · exact Block.csN_eq_hi_of_idle _ i hi rfl
  · rfl
  · simp [Block.mosi]
  · rfl
  · intro u last op data sel ins hc hu hv hl hlen
    have hready : u.blk.lineReady u.cfg sel = true := by
      rw [Block.lineReady_iff, hc, hu]
      exact ⟨Config.lt_nCs_of_hasLine hl, hl⟩
    rw [State.ticks_blk_of_write data (by rw [hu]) (by rw [hu]) (by rw [hu]; exact ⟨rfl, rfl, rfl⟩) (by rw [hu]) hv hready
      hlen, hu]

end Sys2Proof.Machine
end

section
/-! SUPPORT. The chip selects along a tick (R48, R55): a busy block keeps its line, and only the acceptance of a WRITE
starts a transaction. -/

namespace Sys2Proof.Machine

variable {cfg : Config} {b : Block}

/-- A tick that accepts no command writes neither SELREG nor CS_INIT (R104, R106). -/
theorem Block.tick_lines {c : Option Ports} (h : b.cmdReady = true → c = none) :
    (b.tick cfg c).selReg = b.selReg ∧ (b.tick cfg c).csInit = b.csInit := by
  obtain ⟨-, ht⟩ | ⟨-, -, -, ht⟩ | ⟨hf, hp, p, rfl, -⟩ | ⟨-, -, ht⟩ | ⟨-, -, -, ht⟩ | ⟨-, -, -, -, ht⟩ |
    ⟨-, -, -, -, ht⟩ := b.tick_cases cfg c
  case inr.inr.inl => cases h (b.cmdReady_iff.2 ⟨hp, hf⟩)
  all_goals
    rw [ht]
    exact ⟨rfl, rfl⟩

/-- A busy block accepts no command (R102). -/
theorem Block.cmdReady_of_busy (h : b.phase ≠ .idle) : b.cmdReady = false := b.cmdReady_eq_false_iff.2 (.inl h)

/-- A busy block keeps SELREG and CS_INIT, whatever is on the port (R55). -/
theorem Block.tick_lines_of_busy (h : b.phase ≠ .idle) (c : Option Ports) :
    (b.tick cfg c).selReg = b.selReg ∧ (b.tick cfg c).csInit = b.csInit :=
  Block.tick_lines fun hr => by simp [Block.cmdReady_of_busy h] at hr

/-- A transaction starts in the tick that accepts a WRITE with nothing wrong in it (R103, R105). -/
theorem Block.tick_starts {c : Option Ports} (hp : b.phase = .idle) (h : (b.tick cfg c).phase ≠ .idle) :
    ∃ op data sel, c = some (writePorts op data sel) ∧ b.cmdReady = true ∧ b.busInit = true ∧
      validOpcode op = true ∧ b.lineReady cfg sel = true := by
  by_cases hf : b.faultCause = .noFault
  · cases c with
    | none => exact absurd (by rw [b.tick_idle_none cfg hp, hp]) h
    | some p =>
      obtain ⟨kind, op, data, sel⟩ := p
      rw [b.tick_ready cfg hp hf] at h
      cases kind with
      | false => exact absurd ((b.doInit_phase cfg).trans hp) h
      | true =>
        obtain ⟨x, -, hx⟩ | ⟨hv, hb, hl, -⟩ := b.doWrite_cases cfg op data sel
        · exact absurd ((congrArg Block.phase hx).trans hp) h
        · exact ⟨op, data, sel, rfl, b.cmdReady_iff.2 ⟨hp, hf⟩, hb, hv, hl⟩
  · exact absurd (by rw [b.tick_faulted cfg c hf, hp]) h

/-- Settles O37: the low line is SELREG's, and only the acceptance of a command writes SELREG (Block.tick_lines). -/
theorem atMostOneLineLow : Obligations.AtMostOneLineLow := by
  refine fun s c => ⟨fun _ _ => Block.csN_lo_unique, fun i j hi hj => ?_, fun hne => ?_⟩
  · obtain ⟨-, hp, hsel⟩ := (s.blk.csN_eq_lo_iff i).1 hi
    obtain ⟨-, -, hsel'⟩ := ((s.tick c).blk.csN_eq_lo_iff j).1 hj
    rw [← hsel', ← hsel]
    exact (Block.tick_lines_of_busy hp c).1
  · by_contra hc
    exact hne (Block.tick_lines fun hr => by_contra fun hcmd => hc ⟨hr, hcmd⟩).1

/-- Settles O38: a busy block keeps its line, so the block was idle, and it had been initialised (Block.tick_starts). -/
theorem pulsesNeverOverlap : Obligations.PulsesNeverOverlap := by
  intro s c i hinv hi hi'
  obtain ⟨hline, hp', hsel⟩ := ((s.tick c).blk.csN_eq_lo_iff i).1 hi'
  have hp : s.blk.phase = .idle := by
    by_contra hbusy
    obtain ⟨hkeepSel, hkeepInit⟩ := Block.tick_lines_of_busy (cfg := s.cfg) hbusy c
    exact hi (s.blk.csN_eq_lo i (by rw [← hkeepInit]; exact hline) hbusy (by rw [← hkeepSel]; exact hsel))
  obtain ⟨_, _, _, -, -, hb, -, -⟩ := Block.tick_starts hp hp'
  have hhigh (j : Nat) (hj : s.cfg.hasLine j = true) : s.blk.csN j = .hi :=
    s.blk.csN_eq_hi_of_idle j (by rw [hinv.block.csInit_getD hb, hj]) hp
  have hbus' : (s.tick c).blk.busInit = true := ((hinv.tick c).block.active hp').1
  exact ⟨hp, hhigh i (by rw [← hline, (hinv.tick c).block.csInit_getD hbus', State.tick_cfg]), hhigh⟩

end Sys2Proof.Machine
end

section
/-! SUPPORT. A transaction in progress, followed tick by tick with the device on its line (R53, R106 to R111), and the
delivery property (R54). -/

namespace Sys2Proof.Machine

variable {s : State} {d : Device} {f : Frame} {sel n : Nat} {log : List Deliver}

/-! ### What the device holds -/

/-- The device has received the leading DEV_CNT bits of `f`: the last clause of State.carries. -/
def Device.Received (d : Device) (f : Frame) : Prop := ∀ j, j < d.cnt → d.sr.getLsbD j = f.getLsbD (24 - d.cnt + j)

/-- The device samples the frame's next bit (R53). -/
theorem Device.Received.sample (h : d.Received f) (hcnt : d.cnt < 24) :
    (d.sample (f.getLsbD (23 - d.cnt))).Received f := by
  intro j hj
  rw [Device.sample_cnt] at hj ⊢
  cases j with
  | zero => simp [show 24 - (d.cnt + 1) = 23 - d.cnt by omega]
  | succ j =>
    have hprev := h j (by omega)
    rw [show 24 - (d.cnt + 1) + (j + 1) = 24 - d.cnt + j by omega, ← hprev]
    simp [show j + 1 < 24 by omega, -BitVec.getLsbD_eq_getElem]

/-- After 24 sampling edges the device holds the frame (R53). -/
theorem Device.Received.sr_eq (h : d.Received f) (hcnt : d.cnt = 24) : d.sr = f := by
  apply BitVec.eq_of_getLsbD_eq
  intro j hj
  rw [h j (by omega), hcnt, Nat.sub_self, Nat.zero_add]

/-- The bit on mosi while BITCNT bits are left (R63 item 5, R109). -/
theorem msb_shiftLeft_sub (f : Frame) {n : Nat} (h0 : n ≠ 0) (h : n ≤ 24) :
    (f <<< (24 - n)).msb = f.getLsbD (n - 1) := by
  rw [BitVec.msb_eq_getLsbD_last, BitVec.getLsbD_shiftLeft]
  simp [show ¬ 23 < 24 - n by omega, show 23 - (24 - n) = n - 1 by omega]

/-! ### A transaction in progress -/

/-- A transaction is sending `f` on line `sel` and ends in the n-th tick from here (R111), the records being `log`. -/
structure State.Sending (s : State) (f : Frame) (sel n : Nat) (log : List Deliver) : Prop where
  inv       : s.Inv
  busy      : s.blk.phase ≠ .idle
  carries   : s.carries f
  line      : s.blk.selReg = sel
  ticksLeft : n = 2 * s.blk.bitCnt.toNat + s.blk.sclkReg.toNat
  records   : s.obs.delivered = log

/-- The clock falls and the device samples, at the first bit (R107) as at the others (R109). -/
theorem State.Active.tick_sampling (h : s.Active d) (hp : s.blk.phase ≠ .idle) (hs : s.blk.sclkReg = true)
    (hn : s.blk.bitCnt ≠ 0#5) (c : Option Ports) :
    s.tick c =
      { s with blk := { s.blk with phase := .transmitting, sclkReg := false },
               obs := { s.obs with devs := s.obs.devs.set s.blk.selReg (d.sample s.blk.shReg.msb) } } := by
  cases hph : s.blk.phase with
  | idle => exact absurd hph hp
  | selected => exact h.tick_selected c hph hs
  | transmitting => rw [h.tick_falling c hph hs hn, ← hph]

/-- With the clock low the block is in TRANSMITTING, with a bit left to count (R33). -/
theorem State.Inv.of_clock_low (h : s.Inv) (hp : s.blk.phase ≠ .idle) (hs : s.blk.sclkReg = false) :
    s.blk.phase = .transmitting ∧ s.blk.bitCnt ≠ 0#5 := by
  cases hph : s.blk.phase with
  | idle => exact absurd hph hp
  | selected => simpa [hs] using h.block.selected hph
  | transmitting =>
    obtain ⟨-, -, -, hcount⟩ := h.block.transmitting hph
    exact ⟨rfl, hcount hs⟩

/-- BITCNT never exceeds 24 in a transaction (R33). -/
theorem State.Inv.bitCnt_le (h : s.Inv) (hp : s.blk.phase ≠ .idle) : s.blk.bitCnt.toNat ≤ 24 := by
  cases hph : s.blk.phase with
  | idle => exact absurd hph hp
  | selected => simp [(h.block.selected hph).1]
  | transmitting => exact (h.block.transmitting hph).1

/-- With no bit left the transaction is in TRANSMITTING (R33). -/
theorem State.Inv.transmitting_of_sent (h : s.Inv) (hp : s.blk.phase ≠ .idle) (hn : s.blk.bitCnt = 0#5) :
    s.blk.phase = .transmitting := by
  cases hph : s.blk.phase with
  | idle => exact absurd hph hp
  | selected => simpa [hn] using h.block.selected hph
  | transmitting => rfl

/-- What a transaction in progress knows of its device. -/
theorem State.Sending.device (h : s.Sending f sel n log) :
    ∃ d, s.Active d ∧ s.blk.shReg = f <<< (24 - s.blk.bitCnt.toNat) ∧
      d.cnt = (24 - s.blk.bitCnt.toNat) + (if s.blk.sclkReg then 0 else 1) ∧ d.Received f := by
  obtain ⟨d, ha⟩ := h.inv.active h.busy
  obtain ⟨d', hd, hsh, hcnt, hrec⟩ := h.carries
  obtain rfl : d = d' := by simpa [ha.dev] using hd
  exact ⟨d, ha, hsh, hcnt, hrec⟩

/-- With the clock high and bits left to send, the device samples the next bit (R107, R109). -/
theorem State.Sending.tick_of_clock_high (h : s.Sending f sel (n + 2) log) (hs : s.blk.sclkReg = true)
    (c : Option Ports) : (s.tick c).Sending f sel (n + 1) log := by
  obtain ⟨d, ha, hsh, hcnt, hrec⟩ := h.device
  have hle := h.inv.bitCnt_le h.busy
  have hleft := h.ticksLeft
  rw [hs, Bool.toNat_true] at hleft
  rw [hs, if_pos rfl] at hcnt
  have hpos : s.blk.bitCnt.toNat ≠ 0 := by omega
  have hmsb : s.blk.shReg.msb = f.getLsbD (23 - d.cnt) := by
    rw [hsh, msb_shiftLeft_sub f hpos hle, show s.blk.bitCnt.toNat - 1 = 23 - d.cnt by omega]
  have hinv := h.inv.tick c
  rw [ha.tick_sampling h.busy hs (fun h0 => hpos (by rw [h0]; rfl)) c, hmsb] at hinv ⊢
  exact
    { inv := hinv
      busy := by simp
      carries := ⟨_, List.getElem?_set_self (List.getElem?_eq_some_iff.1 ha.dev).1, hsh, by simp [hcnt],
        hrec.sample (by omega)⟩
      line := h.line
      ticksLeft := show n + 1 = 2 * s.blk.bitCnt.toNat + 0 by omega
      records := h.records }

/-- With the clock low, SHREG shifts and BITCNT counts, and the device sees nothing (R108). -/
theorem State.Sending.tick_of_clock_low (h : s.Sending f sel (n + 2) log) (hs : s.blk.sclkReg = false)
    (c : Option Ports) : (s.tick c).Sending f sel (n + 1) log := by
  obtain ⟨d, ha, hsh, hcnt, hrec⟩ := h.device
  have hle := h.inv.bitCnt_le h.busy
  have hleft := h.ticksLeft
  rw [hs, Bool.toNat_false] at hleft
  rw [hs, if_neg Bool.false_ne_true] at hcnt
  obtain ⟨hp, h0⟩ := h.inv.of_clock_low h.busy hs
  have hpred := bitCnt_pred_toNat h0
  have hinv := h.inv.tick c
  rw [ha.tick_rising c hp hs] at hinv ⊢
  exact
    { inv := hinv
      busy := by simp [hp]
      carries := ⟨d, ha.dev, by rw [hsh]; exact shiftLeft_bitCnt_pred f hle h0, by rw [hpred, if_pos rfl]; omega, hrec⟩
      line := h.line
      ticksLeft := by rw [hpred, Bool.toNat_true]; omega
      records := h.records }

/-- Every tick of a transaction but the last leaves it in progress (R107 to R109). -/
theorem State.Sending.tick (h : s.Sending f sel (n + 2) log) (c : Option Ports) :
    (s.tick c).Sending f sel (n + 1) log := by
  cases hs : s.blk.sclkReg with
  | true => exact h.tick_of_clock_high hs c
  | false => exact h.tick_of_clock_low hs c

/-- The last tick of a transaction: the line is released and the device's record is the whole frame (R53, R110). -/
theorem State.Sending.tick_last (h : s.Sending f sel 1 log) (c : Option Ports) :
    (s.tick c).blk.phase = .idle ∧
      (s.tick c).obs.delivered = log ++ [{ line := sel, bits := f, count := 24 }] := by
  obtain ⟨d, ha, -, hcnt, hrec⟩ := h.device
  have hleft := h.ticksLeft
  have hs : s.blk.sclkReg = true := by
    by_contra hlow
    rw [Bool.not_eq_true] at hlow
    rw [hlow, Bool.toNat_false] at hleft
    omega
  rw [hs, Bool.toNat_true] at hleft
  have hn : s.blk.bitCnt.toNat = 0 := by omega
  have h0 : s.blk.bitCnt = 0#5 := BitVec.eq_of_toNat_eq hn
  have hwhole : d.cnt = 24 := by simp [hcnt, hs, hn]
  rw [ha.tick_release c (h.inv.transmitting_of_sent h.busy h0) hs h0]
  exact ⟨rfl, by simp [h.records, h.line, hrec.sr_eq hwhole, hwhole]⟩

/-- A transaction in progress has a tick left. -/
theorem State.Sending.ticksLeft_ne_zero (h : s.Sending f sel n log) : n ≠ 0 := by
  rintro rfl
  have hleft := h.ticksLeft
  have hs : s.blk.sclkReg = false := by
    cases hs : s.blk.sclkReg with
    | false => rfl
    | true => simp [hs] at hleft
  have hn : s.blk.bitCnt.toNat = 0 := by omega
  exact (h.inv.of_clock_low h.busy hs).2 (BitVec.eq_of_toNat_eq hn)

/-- The tick that accepts a WRITE starts a transaction of 49 ticks more (R106, R111). -/
theorem State.Inv.tick_write_sending (h : s.Inv) {op : Opcode} (data : Data) (hr : s.blk.cmdReady = true)
    (hb : s.blk.busInit = true) (hv : validOpcode op = true) (hl : s.cfg.hasLine sel = true) :
    (s.tick (some (writePorts op data sel))).Sending (frame op data) sel 49 s.obs.delivered := by
  have hlt : sel < s.obs.devs.length := h.devs ▸ Config.lt_nCs_of_hasLine hl
  have hclk : s.blk.sclkReg = true := (h.block.idle ((Block.cmdReady_iff _).1 hr).1).2.2
  have hinv := h.tick (some (writePorts op data sel))
  rw [State.tick_start op data sel s hr hv hb (by rw [h.block.csInit_getD hb, hl]) hl (List.getElem?_eq_getElem hlt)]
    at hinv ⊢
  exact
    { inv := hinv
      busy := by simp
      carries := ⟨_, List.getElem?_set_self hlt, by simp, by simp [hclk], fun j hj => absurd hj (Nat.not_lt_zero j)⟩
      line := rfl
      ticksLeft := by simp [hclk]
      records := rfl }

/-! ### The delivery property (R54) -/

theorem State.Inv.ticks (h : s.Inv) (ins : List (Option Ports)) : (s.ticks ins).Inv := by
  induction ins generalizing s with
  | nil => exact h
  | cons c cs ih => exact ih (h.tick c)

/-- Before its last tick a transaction is in progress, whatever the host presents. -/
theorem State.Sending.ticks (h : s.Sending f sel n log) {ins : List (Option Ports)} (hlen : ins.length < n) :
    (s.ticks ins).Sending f sel (n - ins.length) log := by
  induction ins generalizing s n with
  | nil => exact h
  | cons c cs ih =>
    match n, hlen with
    | n + 2, hlen =>
      have hnext := ih (h.tick c) (by simpa using hlen)
      rwa [← Nat.add_sub_add_right _ 1] at hnext

/-- In its last tick a transaction has put exactly one record, its whole frame, behind the others. -/
theorem State.Sending.ticks_all (h : s.Sending f sel (n + 1) log) {ins : List (Option Ports)} (hlen : ins.length = n + 1) :
    (s.ticks ins).obs.delivered = log ++ [{ line := sel, bits := f, count := 24 }] := by
  obtain ⟨cs, c, rfl⟩ : ∃ cs c, ins = cs ++ [c] := by
    obtain rfl | h := List.eq_nil_or_concat ins
    · cases hlen
    · simpa using h
  have hcs : cs.length = n := by simpa using hlen
  have hlast := h.ticks (ins := cs) (by omega)
  rw [hcs, Nat.add_sub_cancel_left] at hlast
  rw [State.ticks_append, State.ticks_cons, State.ticks_nil]
  exact (hlast.tick_last c).2

/-- The low line of a transaction is its own, and every other configured line is high (R26). -/
theorem State.Sending.csN (h : s.Sending f sel n log) :
    s.blk.csN sel = .lo ∧ ∀ j, j ≠ sel → s.cfg.hasLine j = true → s.blk.csN j = .hi := by
  obtain ⟨hb, -, -, hline⟩ := h.inv.block.active h.busy
  refine ⟨s.blk.csN_eq_lo sel (h.line ▸ hline) h.busy h.line, fun j hj hl => ?_⟩
  exact s.blk.csN_eq_hi_of_other j (by rw [h.inv.block.csInit_getD hb, hl]) (by rw [h.line]; exact hj.symm)

/-- The 50 ticks of a WRITE: one record, and the block as before but for SELREG (R54, R111). -/
theorem State.Inv.ticks_of_write (h : s.Inv) {op : Opcode} (data : Data) {ins : List (Option Ports)}
    (hr : s.blk.cmdReady = true) (hb : s.blk.busInit = true) (hv : validOpcode op = true) (hl : s.cfg.hasLine sel = true)
    (hlen : ins.length = 49) :
    (s.ticks (some (writePorts op data sel) :: ins)).obs.delivered =
        s.obs.delivered ++ [{ line := sel, bits := frame op data, count := 24 }] ∧
      (s.ticks (some (writePorts op data sel) :: ins)).blk = { s.blk with selReg := sel } := by
  obtain ⟨hp, hf⟩ := (Block.cmdReady_iff _).1 hr
  have hready : s.blk.lineReady s.cfg sel = true :=
    (Block.lineReady_iff _ _ _).2 ⟨Config.lt_nCs_of_hasLine hl, by rw [h.block.csInit_getD hb, hl]⟩
  exact ⟨(h.tick_write_sending data hr hb hv hl).ticks_all hlen,
    State.ticks_blk_of_write data hp hf (h.block.idle hp) hb hv hready hlen⟩

/-- A frame is its three fields side by side (R61). -/
theorem frame_eq_append (op : Opcode) (data : Data) : frame op data = op ++ 0#4 ++ data := by
  apply BitVec.eq_of_getLsbD_eq
  intro i hi
  rw [frame_getLsbD, BitVec.getLsbD_append, BitVec.getLsbD_append]
  by_cases h16 : i < 16
  · simp [h16]
  · by_cases h20 : i < 20
    · simp [h16, h20, show i - 16 < 4 by omega]
    · simp [h16, h20, show ¬ i - 16 < 4 by omega, show i - 16 - 4 = i - 20 by omega]

/-- Settles O31: the WRITE starts a transaction (State.Inv.tick_write_sending) that lasts to tick 49 (State.Sending.ticks),
and the tick after it leaves one record and a block that is idle again (State.Inv.ticks_of_write). -/
theorem writeDelivers : Obligations.WriteDelivers := by
  intro s op data sel ins hinv hr hb hv hl hlen after
  have hafter (n : Nat) : after n = (s.tick (some (writePorts op data sel))).ticks (ins.take n) := rfl
  have hmid (n : Nat) (hn : n ≤ 48) :
      (after n).Sending (frame op data) sel (49 - (ins.take n).length) s.obs.delivered := by
    rw [hafter]
    exact (hinv.tick_write_sending data hr hb hv hl).ticks (by rw [List.length_take]; omega)
  obtain ⟨hrec, hblk⟩ := hinv.ticks_of_write data hr hb hv hl hlen
  have hend : after 49 = s.ticks (some (writePorts op data sel) :: ins) := by
    rw [hafter, List.take_of_length_le hlen.le, State.ticks_cons]
  have hcfg (n : Nat) : (after n).cfg = s.cfg := State.ticks_cfg _ _
  have hp : s.blk.phase = .idle := ((Block.cmdReady_iff _).1 hr).1
  have hhigh (j : Nat) (hj : s.cfg.hasLine j = true) : s.blk.csN j = .hi ∧ (after 49).blk.csN j = .hi := by
    have hcs : s.blk.csInit.getD j false = true := by rw [hinv.block.csInit_getD hb, hj]
    refine ⟨s.blk.csN_eq_hi_of_idle j hcs hp, Block.csN_eq_hi_of_idle _ j ?_ ?_⟩ <;> rw [hend, hblk] <;> assumption
  refine ⟨exec_eq_tick s (.write op data sel), fun n hn => ⟨(hmid n hn).busy, (hmid n hn).records⟩, ?_, ?_,
    (hhigh sel hl).1, fun n hn => (hmid n hn).csN.1, (hhigh sel hl).2, fun j hj hjl n hn => ?_⟩
  · rw [hend, hblk]
    exact hp
  · rw [hend, hrec, frame_eq_append]
  · obtain hlt | rfl : n ≤ 48 ∨ n = 49 := by omega
    · exact (hmid n hlt).csN.2 j hj (by rw [hcfg, hjl])
    · exact (hhigh j hjl).2

end Sys2Proof.Machine
end

section
/-! SUPPORT. Absent a reset in mid-frame every record is a whole frame of this block (R45, R53): a tick from IDLE and a
tick of a transaction in progress keep this. -/

namespace Sys2Proof.Machine

variable {s t : State} {f : Frame} {sel : Nat}

/-- With no transaction in progress there is nothing on the wire to keep. -/
theorem State.wireInv_of_idle (h : s.blk.phase = .idle) : s.wireInv := fun hp => absurd h hp

/-- The record of a whole frame keeps the records whole. -/
theorem State.wholeFrames.append (h : s.wholeFrames) (hc : t.cfg = s.cfg) (hf : ourFrame f) (hl : s.cfg.hasLine sel = true)
    (hrec : t.obs.delivered = s.obs.delivered ++ [{ line := sel, bits := f, count := 24 }]) : t.wholeFrames := by
  intro r hr
  rw [hrec, List.mem_append, List.mem_singleton] at hr
  rw [hc]
  obtain hr | rfl := hr
  · exact h r hr
  · exact ⟨rfl, hf, hl⟩

theorem State.wholeFrames.of_records (h : s.wholeFrames) (hc : t.cfg = s.cfg) (hrec : t.obs.delivered = s.obs.delivered) :
    t.wholeFrames := by
  intro r hr
  rw [hc]
  exact h r (hrec ▸ hr)

/-- A tick of a transaction in progress leaves it in progress, or ends it with the record of its frame. -/
theorem State.Inv.tick_wholeFrames_of_busy (h : s.Inv) (hp : s.blk.phase ≠ .idle) (hw : s.wireInv) (hr : s.wholeFrames)
    (c : Option Ports) : (s.tick c).wireInv ∧ (s.tick c).wholeFrames := by
  obtain ⟨f, hf, hc⟩ := hw hp
  obtain ⟨n, hn⟩ : ∃ n, n = 2 * s.blk.bitCnt.toNat + s.blk.sclkReg.toNat := ⟨_, rfl⟩
  have hsend : s.Sending f s.blk.selReg n s.obs.delivered := ⟨h, hp, hc, rfl, hn, rfl⟩
  match n, hsend with
  | 0, hsend => exact absurd rfl hsend.ticksLeft_ne_zero
  | 1, hsend =>
    obtain ⟨hidle, hrec⟩ := hsend.tick_last c
    obtain ⟨d, ha⟩ := h.active hp
    exact ⟨State.wireInv_of_idle hidle, hr.append rfl hf ha.hasLine hrec⟩
  | n + 2, hsend => exact ⟨fun _ => ⟨f, hf, (hsend.tick c).carries⟩, hr.of_records rfl (hsend.tick c).records⟩

/-- A tick from IDLE records nothing, and what it may start is a frame of this block. -/
theorem State.Inv.tick_wholeFrames_of_idle (h : s.Inv) (hp : s.blk.phase = .idle) (hr : s.wholeFrames)
    (c : Option Ports) : (s.tick c).wireInv ∧ (s.tick c).wholeFrames := by
  by_cases hp' : (s.tick c).blk.phase = .idle
  · exact ⟨State.wireInv_of_idle hp', by rw [State.tick_idle c s hp hp']; exact hr⟩
  · obtain ⟨op, data, sel, rfl, hready, hb, hv, hline⟩ := Block.tick_starts hp hp'
    have hl : s.cfg.hasLine sel = true := by
      rw [← h.block.csInit_getD hb]
      exact ((Block.lineReady_iff _ _ _).1 hline).2
    have hsend := h.tick_write_sending data hready hb hv hl
    exact ⟨fun _ => ⟨_, ourFrame_frame data hv, hsend.carries⟩, hr.of_records rfl hsend.records⟩

theorem State.Inv.tick_wholeFrames (h : s.Inv) (hw : s.wireInv) (hr : s.wholeFrames) (c : Option Ports) :
    (s.tick c).wireInv ∧ (s.tick c).wholeFrames := by
  by_cases hp : s.blk.phase = .idle
  · exact h.tick_wholeFrames_of_idle hp hr c
  · exact h.tick_wholeFrames_of_busy hp hw hr c

/-- Settles O39: a host line leaves block and observer, a RESET line comes in IDLE and shows the devices nothing, and the
tick is State.Inv.tick_wholeFrames's. -/
theorem wholeFramesOnly : Obligations.WholeFramesOnly := by
  intro s t hinv hw hr hcut hs
  obtain ⟨_, rfl⟩ | ⟨_, _, -, -, -, rfl⟩ | ⟨rest, hhost, rfl⟩ | ⟨rest, c, rfl, -⟩ := step_cases s t hs
  · exact ⟨hw, hr⟩
  · exact ⟨hw, hr⟩
  · have hp : s.blk.phase = .idle := by
      by_contra hp
      exact hcut ⟨by rw [hhost]; rfl, s.blk.busy_iff.2 hp⟩
    exact ⟨State.wireInv_of_idle rfl, by rw [State.resetPulse_of_idle (s := s.withHost rest) hp]; exact hr⟩
  · exact State.Inv.tick_wholeFrames (s := s.withHost rest) (hinv.of_host rfl rfl rfl) hw hr c

end Sys2Proof.Machine
end

section
/-! SUPPORT. Scripts of held catalog commands (R72, R93): the steps of one line are the 50 ticks of its WRITE. -/

namespace Sys2Proof.Machine

variable {s t : State} {f : Frame} {sel n : Nat} {log : List Deliver}
  {x : ((Data → Nat → Instr) × Opcode) × Data × Nat} {cmds : List (((Data → Nat → Instr) × Opcode) × Data × Nat)}

/-- A run of i + k steps is a run of k steps from where i steps lead. -/
theorem run_add {i : Nat} (k : Nat) (h : core.run i s = .next t) : core.run (i + k) s = core.run k t := by
  induction i generalizing s with
  | zero =>
    cases h
    rw [Nat.zero_add]
  | succ i ih =>
    rw [Nat.succ_add]
    cases hx : step s with
    | next u => simpa [Host.Core.run, core, hx] using ih (s := u) (by simpa [Host.Core.run, core, hx] using h)
    | fault r => cases r
    | refused r => simp [Host.Core.run, core, hx] at h

/-- A row of the catalog: its encoding decodes to itself and puts a WRITE of its opcode on the port (R66, R69, R93). -/
theorem catalogRows_decode {row : (Data → Nat → Instr) × Opcode} (h : row ∈ catalogRows) (data : Data) {selW : Nat}
    (hsel : selFits selW sel = true) :
    decode selW (encode (row.1 data sel)) = .ok (row.1 data sel) ∧
      portsOf (row.1 data sel) = writePorts row.2 data sel ∧ validOpcode row.2 = true := by
  simp only [catalogRows, List.mem_cons, List.not_mem_nil, or_false] at h
  obtain rfl | rfl | rfl | rfl | rfl | rfl | rfl | rfl | rfl | rfl | rfl := h <;>
    exact ⟨by simp [encode, decode, decodeFrame, hsel], rfl, by decide⟩

/-- The script line that holds a catalog command. -/
def catalogLine (x : ((Data → Nat → Instr) × Opcode) × Data × Nat) : HostLine := .hold (encode (x.1.1 x.2.1 x.2.2))

/-- The command is a row of the catalog for a line of CS_CFG. -/
def inCatalog (cfg : Config) (x : ((Data → Nat → Instr) × Opcode) × Data × Nat) : Prop :=
  x.1 ∈ catalogRows ∧ cfg.hasLine x.2.2 = true

/-- A ready block accepts the held command, and the line leaves the script (R72, R102). -/
theorem step_of_ready_hold {rest : List HostLine} (hx : inCatalog s.cfg x) (hr : s.blk.cmdReady = true)
    (hh : s.host = catalogLine x :: rest) :
    step s = .next ((s.withHost rest).tick (some (writePorts x.1.2 x.2.1 x.2.2))) := by
  have hfault : s.blk.fault = false := by simp [Block.fault, ((Block.cmdReady_iff _).1 hr).2]
  have hfetch : fetch s = .command (encode (x.1.1 x.2.1 x.2.2)) (s.withHost rest) := by
    simp [fetch, hh, catalogLine, hfault, hr]
  obtain ⟨hd, hports, -⟩ := catalogRows_decode hx.1 x.2.1 (Config.selFits_of_hasLine hx.2)
  rw [step_of_decoded hfetch hd, hports]

/-- While the block is busy, a step with a script of held catalog commands is a tick that keeps the script (R102). -/
theorem step_of_busy_hold (hinv : s.Inv) (hp : s.blk.phase ≠ .idle) (hx : ∀ x ∈ cmds, inCatalog s.cfg x)
    (hh : s.host = cmds.map catalogLine) : ∃ c, step s = .next (s.tick c) := by
  cases cmds with
  | nil => exact ⟨none, step_of_quiet (by simp [fetch, hh])⟩
  | cons x xs =>
    obtain ⟨hrow, hl⟩ := hx x List.mem_cons_self
    have hfault : s.blk.fault = false := by simp [Block.fault, (hinv.block.active hp).2.1]
    have hfetch : fetch s = .command (encode (x.1.1 x.2.1 x.2.2)) s := by
      simp [fetch, hh, catalogLine, hfault, Block.cmdReady_of_busy hp]
    exact ⟨_, step_of_decoded hfetch (catalogRows_decode hrow x.2.1 (Config.selFits_of_hasLine hl)).1⟩

/-- A transaction runs to its end in as many steps as it has ticks left, with such a script (R72, R111). -/
theorem State.Sending.run (h : s.Sending f sel n log) (hx : ∀ x ∈ cmds, inCatalog s.cfg x)
    (hh : s.host = cmds.map catalogLine) : ∃ ins, ins.length = n ∧ core.run n s = .next (s.ticks ins) := by
  induction n generalizing s with
  | zero => exact ⟨[], rfl, rfl⟩
  | succ n ih =>
    obtain ⟨c, hstep⟩ := step_of_busy_hold h.inv h.busy hx hh
    have hrun : core.run (n + 1) s = core.run n (s.tick c) := by simp [Host.Core.run, core, hstep]
    cases n with
    | zero => exact ⟨[c], rfl, hrun⟩
    | succ n =>
      obtain ⟨ins, hlen, hins⟩ := ih (h.tick c) hx hh
      exact ⟨c :: ins, by rw [List.length_cons, hlen], hrun.trans hins⟩

/-- One line of the script: 50 steps, which are the 50 ticks of its WRITE (R72, R111). -/
theorem run_catalogLine (hinv : s.Inv) (hr : s.blk.cmdReady = true) (hb : s.blk.busInit = true)
    (hx : ∀ y ∈ x :: cmds, inCatalog s.cfg y) (hh : s.host = (x :: cmds).map catalogLine) :
    ∃ ins, ins.length = 49 ∧ core.run 50 s =
      .next ((s.withHost (cmds.map catalogLine)).ticks (some (writePorts x.1.2 x.2.1 x.2.2) :: ins)) := by
  have hx0 := hx x List.mem_cons_self
  have hv := (catalogRows_decode hx0.1 x.2.1 (Config.selFits_of_hasLine hx0.2)).2.2
  have hsend := State.Inv.tick_write_sending (s := s.withHost (cmds.map catalogLine)) (hinv.of_host rfl rfl rfl) x.2.1 hr hb
    hv hx0.2
  obtain ⟨ins, hlen, hrun⟩ := hsend.run (fun y hy => hx y (List.mem_cons_of_mem x hy)) rfl
  refine ⟨ins, hlen, ?_⟩
  have hone : core.run 1 s = .next ((s.withHost (cmds.map catalogLine)).tick (some (writePorts x.1.2 x.2.1 x.2.2))) := by
    simp [Host.Core.run, core, step_of_ready_hold hx0 hr hh]
  rw [run_add 49 hone, hrun, State.ticks_cons]

/-- Settles O32, by induction on the script: a line is the 50 ticks of its WRITE (run_catalogLine), which leave its record
and a block ready for the next line (State.Inv.ticks_of_write). -/
theorem scriptsDeliverInOrder : Obligations.ScriptsDeliverInOrder := by
  intro s cmds hinv hr hb hx hh
  induction cmds generalizing s with
  | nil => exact ⟨s, rfl, by simp, hh, rfl, rfl, s.blk.selReg, rfl⟩
  | cons x xs ih =>
    obtain ⟨ins, hlen, hrun⟩ := run_catalogLine hinv hr hb hx hh
    obtain ⟨hrow, hl⟩ := hx x List.mem_cons_self
    have hv := (catalogRows_decode hrow x.2.1 (Config.selFits_of_hasLine hl)).2.2
    have hinv' : (s.withHost (xs.map catalogLine)).Inv := hinv.of_host rfl rfl rfl
    obtain ⟨hrec, hblk⟩ := hinv'.ticks_of_write x.2.1 hr hb hv hl hlen
    obtain ⟨t, ht, hrecs, hend, hcfg, hskip, last, hlast⟩ := ih _ (hinv'.ticks _) (by rw [hblk]; exact hr)
      (by rw [hblk]; exact hb) (by simpa using fun y hy => hx y (List.mem_cons_of_mem x hy)) (by simp [catalogLine])
    refine ⟨t, ?_, ?_, hend, by simpa using hcfg, by simpa using hskip, last, by rw [hlast, hblk]; rfl⟩
    · rw [List.length_cons, Nat.mul_succ, Nat.add_comm, run_add _ hrun]
      exact ht
    · rw [hrecs, hrec]
      simp

end Sys2Proof.Machine
end

section
/-! SUPPORT. The catalog's rows in the decoder, the encoder and exec (R66, R69, R71): said once for a row, so that the
statements about all instructions need no case for each command. -/

namespace Sys2Proof.Machine

variable {row : (Data → Nat → Instr) × Opcode} {f : Frame} {selW : Nat}

theorem selFits_of_lt {sel : Nat} (h : sel < 2 ^ selW) : selFits selW sel = true := decide_eq_true h

/-- The instructions: the catalog's commands, and the host's two operations (R2, R66, R104, R105). -/
theorem catalog_or_init_or_write (i : Instr) :
    (∃ row ∈ catalogRows, ∃ data sel, i = row.1 data sel) ∨ i = .init ∨ ∃ op data sel, i = .write op data sel := by
  cases i with
  | init => exact .inr (.inl rfl)
  | write op data sel => exact .inr (.inr ⟨op, data, sel, rfl⟩)
  | _ => exact .inl (by simp [catalogRows])

theorem wellFormed_catalogRows (h : row ∈ catalogRows) (data : Data) (sel : Nat) :
    (row.1 data sel).wellFormed selW = selFits selW sel := by
  revert row
  simp [catalogRows, Instr.wellFormed]

theorem encode_catalogRows (h : row ∈ catalogRows) (data : Data) (sel : Nat) :
    encode (row.1 data sel) = .frame24 (frame row.2 data) sel := by
  revert row
  simp [catalogRows, encode]

theorem portsOf_catalogRows (h : row ∈ catalogRows) (data : Data) (sel : Nat) :
    portsOf (row.1 data sel) = writePorts row.2 data sel := by
  revert row
  simp [catalogRows, portsOf]

theorem decode_hostcmd {p : Ports} (h : selFits selW p.sel = true) : decode selW (.hostcmd p) = .ok (decodePorts p) := by
  simp [decode, h]

theorem decode_frame24 {sel : Nat} (h : selFits selW sel = true) : decode selW (.frame24 f sel) = decodeFrame f sel := by
  simp [decode, h]

/-- A command for a line that the port cannot name is not decoded (R24). -/
theorem selFits_of_decode_frame24 {sel : Nat} {i : Instr} (h : decode selW (.frame24 f sel) = .ok i) :
    selFits selW sel = true := by
  by_contra hs
  simp [decode, hs] at h

/-- Settles O1: a catalog command by its row (catalogRows_decode), the host's two operations by their ports. -/
theorem decodeInvertsEncode : Obligations.DecodeInvertsEncode := by
  intro selW i hw
  obtain ⟨row, hrow, data, sel, rfl⟩ | rfl | ⟨op, data, sel, rfl⟩ := catalog_or_init_or_write i
  · exact (catalogRows_decode hrow data (by rwa [wellFormed_catalogRows hrow] at hw)).1
  · exact decode_hostcmd (selFits_of_lt (Nat.two_pow_pos selW))
  · exact decode_hostcmd hw

/-- Settles O2: a frame that decodes has reserved bits zero and is then the frame of its fields (frame_of_fields). -/
theorem encodeInvertsDecodedFrame : Obligations.EncodeInvertsDecodedFrame := by
  intro selW f sel i h
  rw [decode_frame24 (selFits_of_decode_frame24 h)] at h
  obtain ⟨-, hd⟩ | ⟨-, -, hd⟩ | ⟨hr, -, j, hd, henc, -⟩ := decodeFrame_cases f sel
  · simp [h] at hd
  · simp [h] at hd
  · rw [frame_of_fields hr] at henc
    rw [h] at hd
    cases hd
    exact henc

/-- The assembled frame of a row decodes to its command (R69): the frame form on a port wide enough for the line. -/
theorem decodeFrame_frame (h : row ∈ catalogRows) (data : Data) (sel : Nat) :
    decodeFrame (frame row.2 data) sel = .ok (row.1 data sel) := by
  have hsel : selFits sel sel = true := selFits_of_lt Nat.lt_two_pow_self
  have hd := (catalogRows_decode h data hsel).1
  rwa [encode_catalogRows h, decode_frame24 hsel] at hd

theorem decodeFrame_of_row (h : row ∈ catalogRows) (hr : frameRsvd f = 0#4) (hop : frameOpcode f = row.2) (sel : Nat) :
    decodeFrame f sel = .ok (row.1 (frameData f) sel) := by
  have hd := decodeFrame_frame h (frameData f) sel
  rwa [← hop, frame_of_fields hr] at hd

theorem validOpcode_iff_mem (op : Opcode) : validOpcode op = true ↔ op ∈ catalogRows.map Prod.snd :=
  List.contains_iff_mem

/-- The valid opcodes are the catalog's (R66). -/
theorem validOpcode_iff_row (op : Opcode) : validOpcode op = true ↔ ∃ row ∈ catalogRows, row.2 = op :=
  (validOpcode_iff_mem op).trans List.mem_map

/-- Settles O3: the refusals by decodeFrame_cases, the commands by decodeFrame_of_row and decodeFrame_frame. -/
theorem frameDecodingHasThreeOutcomes : Obligations.FrameDecodingHasThreeOutcomes := by
  intro f sel
  refine ⟨fun hr => ?_, fun hr hv => ?_, fun hr row hrow hop => decodeFrame_of_row hrow hr hop sel, fun _ hv => ?_,
    fun row hrow data => decodeFrame_frame hrow data sel⟩
  · obtain ⟨-, hd⟩ | ⟨h0, -⟩ | ⟨h0, -⟩ := decodeFrame_cases f sel
    · exact hd
    · exact absurd h0 hr
    · exact absurd h0 hr
  · obtain ⟨h0, -⟩ | ⟨-, -, hd⟩ | ⟨-, hv', -⟩ := decodeFrame_cases f sel
    · exact absurd hr h0
    · exact hd
    · exact absurd (hv.symm.trans hv') Bool.false_ne_true
  · obtain ⟨row, hrow, hop⟩ := (validOpcode_iff_row _).1 hv
    exact ⟨row, hrow, hop.symm⟩

/-- Settles O6: ValidOpcode tests membership in the catalog's opcodes (validOpcode_iff_row), and the rest is the table read
row by row; the mask is compared at the sixteen opcode values. -/
theorem opcodeMap : Obligations.OpcodeMap := by
  have hmask : ∀ op : Opcode, validOpcode op = (0x9E9F#16).getLsbD op.toNat := by decide
  exact ⟨fun op => ⟨validOpcode_iff_mem op, hmask op, validOpcode_iff_row op⟩, by decide, rfl, fun _ _ => rfl⟩

/-- Settles O9: `cmd_kind` decides (decodePorts) once the identifier fits the port (decode_hostcmd). -/
theorem portsNameTheirOperation : Obligations.PortsNameTheirOperation := by
  intro selW op data sel h
  exact ⟨decode_hostcmd (selFits_of_lt h), decode_hostcmd (selFits_of_lt h)⟩

/-- Settles O18: both forms are one tick (exec_eq_tick) with the same values on the port (portsOf_catalogRows). -/
theorem mnemonicAndRawFormsAgree : Obligations.MnemonicAndRawFormsAgree := by
  intro row hrow data sel s
  rw [exec_eq_tick, exec_eq_tick, portsOf_catalogRows hrow]
  rfl

end Sys2Proof.Machine
end

section
/-! SUPPORT. The laws of frame assembly (R62 to R64): the fields side by side, as numbers, as bytes, and under the shifts
that send them. -/

namespace Sys2Proof.Machine

/-- Settles O4: the fields side by side (frame_eq_append); the OR is the definition. -/
theorem frameAssembly : Obligations.FrameAssembly :=
  ⟨fun op data => ⟨frame_eq_append op data, rfl⟩, by decide, by decide⟩

/-- The first byte of a frame as a number (R64). -/
theorem append_zero_toNat (op : Opcode) : (op ++ 0#4).toNat = op.toNat * 16 := by
  rw [BitVec.toNat_append]
  simp [Nat.shiftLeft_eq]

/-- No carry: the opcode and the data stand in different bits, so the OR is a sum (R63 item 1). -/
theorem frame_toNat (op : Opcode) (data : Data) : (frame op data).toNat = op.toNat * 2 ^ 20 + data.toNat := by
  have hdata : data.toNat < 2 ^ 16 := data.isLt
  rw [frame_eq_append, BitVec.toNat_append, ← Nat.shiftLeft_add_eq_or_of_lt hdata, Nat.shiftLeft_eq, append_zero_toNat]
  omega

theorem frame_injective {op op' : Opcode} {data data' : Data} (h : frame op data = frame op' data') :
    op = op' ∧ data = data' :=
  ⟨by simpa using congrArg frameOpcode h, by simpa using congrArg frameData h⟩

/-- A shift moves every bit but the top one up by one (R63). -/
theorem getLsbD_shiftLeft_one (f : Frame) {i : Nat} (hi : i < 23) : (f <<< 1).getLsbD (i + 1) = f.getLsbD i := by
  have htop : i + 1 < 24 := by omega
  rw [BitVec.getLsbD_shiftLeft, Nat.add_sub_cancel]
  simp [htop]

theorem iterate_shiftLeft_one (n : Nat) (f : Frame) : (fun v : Frame => v <<< 1)^[n] f = f <<< n := by
  induction n with
  | zero => simp
  | succ n ih => rw [Function.iterate_succ_apply', ih, BitVec.shiftLeft_add]

/-- Settles O5: the sum is frame_toNat, the image is that of the fields (frame_of_fields), and n shifts by one are one shift
by n (iterate_shiftLeft_one). -/
theorem frameLaws : Obligations.FrameLaws := by
  refine ⟨fun op data => ⟨frame_toNat op data, frameOpcode_frame op data, frameRsvd_frame op data, frameData_frame op data⟩,
    fun _ _ _ _ => frame_injective, fun f => ⟨?_, fun hr => ⟨_, _, frame_of_fields hr⟩⟩,
    fun f => ⟨by simp, fun i => getLsbD_shiftLeft_one f⟩, fun f => ?_⟩
  · rintro ⟨op, data, rfl⟩
    exact frameRsvd_frame op data
  · rw [iterate_shiftLeft_one, BitVec.shiftLeft_eq_zero le_rfl]

/-- The bytes of an assembled frame: the opcode above four zeros, then the data's two bytes (R64). -/
theorem frameBytes_frame (op : Opcode) (data : Data) :
    frameBytes (frame op data) = [op ++ 0#4, data.extractLsb' 8 8, data.extractLsb' 0 8] := by
  have h2 : (op ++ 0#4 ++ data).extractLsb' 16 8 = op ++ 0#4 := BitVec.extractLsb'_append_eq_left
  have h1 : (op ++ 0#4 ++ data).extractLsb' 8 8 = data.extractLsb' 8 8 :=
    BitVec.extractLsb'_append_eq_of_add_le (by decide)
  have h0 : (op ++ 0#4 ++ data).extractLsb' 0 8 = data.extractLsb' 0 8 :=
    BitVec.extractLsb'_append_eq_of_add_le (by decide)
  rw [frame_eq_append, frameBytes, h2, h1, h0]

/-- The three bytes side by side are the frame. -/
theorem append_frameBytes (f : Frame) : f.extractLsb' 16 8 ++ f.extractLsb' 8 8 ++ f.extractLsb' 0 8 = f := by
  have hhigh : f.extractLsb' 16 8 ++ f.extractLsb' 8 8 = f.extractLsb' 8 16 :=
    BitVec.extractLsb'_append_extractLsb'_eq_extractLsb' rfl
  have hall : f.extractLsb' 8 16 ++ f.extractLsb' 0 8 = f.extractLsb' 0 24 :=
    BitVec.extractLsb'_append_extractLsb'_eq_extractLsb' rfl
  exact (congrArg (· ++ f.extractLsb' 0 8) hhigh).trans (hall.trans BitVec.extractLsb'_eq_self)

/-- The byte decoder reads a frame from its bytes and leaves the rest (R64). -/
theorem decodeBytes_frameBytes {f : Frame} {sel : Nat} {i : Instr} (rest : List Byte) (h : decodeFrame f sel = .ok i) :
    decodeBytes sel (frameBytes f ++ rest) = .ok (i, rest) := by
  simp [frameBytes, decodeBytes, append_frameBytes, h]

/-- Settles O8: the bytes of an assembled frame (frameBytes_frame), and the decoder on them (decodeBytes_frameBytes). -/
theorem frameBytesInWireOrder : Obligations.FrameBytesInWireOrder :=
  ⟨fun op data => ⟨frameBytes_frame op data, append_zero_toNat op⟩, by decide,
    fun _ _ rest _ => decodeBytes_frameBytes rest⟩

/-- Settles O7: the decoder evaluated on each of the ten words. -/
theorem catalogWordsDecode : Obligations.CatalogWordsDecode :=
  ⟨rfl, rfl, rfl, rfl, rfl, rfl, rfl, rfl, rfl, rfl⟩

end Sys2Proof.Machine
end

section
/-! SUPPORT. The lines of the host's script (R72): one equation of `fetch` for each line and each way it goes, from which
the step follows (step_of_moved, step_of_quiet, step_eq_exec). -/

namespace Sys2Proof.Machine

variable {s u : State} {c : HostCmd} {rest : List HostLine}

theorem Block.fault_of_cmdReady {b : Block} (h : b.cmdReady = true) : b.fault = false := by
  simp [Block.fault, (b.cmdReady_iff.1 h).2]

theorem fetch_nil (hh : s.host = []) : fetch s = .quiet s := by simp [fetch, hh]

theorem fetch_present (hh : s.host = .present c :: rest) : fetch s = .command c (s.withHost rest) := by simp [fetch, hh]

theorem fetch_hold_of_ready (hh : s.host = .hold c :: rest) (hr : s.blk.cmdReady = true) :
    fetch s = .command c (s.withHost rest) := by
  simp [fetch, hh, hr, Block.fault_of_cmdReady hr]

/-- A held command that the block does not accept stays, unless FAULTED skips it (R102). -/
theorem fetch_hold_of_waiting (hh : s.host = .hold c :: rest) (hr : s.blk.cmdReady = false)
    (hskip : s.blk.fault = false ∨ rest.any HostLine.isReset = false) : fetch s = .command c s := by
  have hno : (s.blk.fault && rest.any HostLine.isReset) = false := by simpa only [Bool.and_eq_false_iff] using hskip
  simp only [fetch, hh, hno, hr, Bool.false_eq_true, if_false]

/-- In FAULTED a held command is skipped up to the next RESET line (R72). -/
theorem fetch_hold_of_faulted {before after : List HostLine} (hh : s.host = .hold c :: (before ++ .reset :: after))
    (hf : s.blk.faultCause ≠ .noFault) (hb : HostLine.reset ∉ before) :
    fetch s = .moved (s.skipTo (.reset :: after)) := by
  have hpass : ∀ l ∈ before, (!l.isReset) = true := by
    intro l hl
    cases l with
    | reset => exact absurd hl hb
    | _ => rfl
  have hdrop : (before ++ .reset :: after).dropWhile (fun l => !l.isReset) = .reset :: after := by
    rw [List.dropWhile_append_of_pos hpass]
    rfl
  have hany : (before ++ .reset :: after).any HostLine.isReset = true := by simp [HostLine.isReset]
  simp only [fetch, hh, s.blk.fault_iff.2 hf, hany, hdrop, Bool.and_self, if_true]

theorem fetch_wait_of_busy (hh : s.host = .wait :: rest) (hp : s.blk.phase ≠ .idle) : fetch s = .quiet s := by
  simp [fetch, hh, s.blk.busy_iff.2 hp]

theorem fetch_wait_of_idle (hh : s.host = .wait :: rest) (hp : s.blk.phase = .idle) :
    fetch s = .moved (s.withHost rest) := by
  simp [fetch, hh, Block.busy, hp]

theorem fetch_idle_zero (hh : s.host = .idle 0 :: rest) : fetch s = .moved (s.withHost rest) := by simp [fetch, hh]

theorem fetch_idle_succ {n : Nat} (hh : s.host = .idle (n + 1) :: rest) :
    fetch s = .quiet (s.withHost (.idle n :: rest)) := by
  simp [fetch, hh]

/-- A step with a command on the port that decodes is exec of what it decodes to (R72). -/
theorem step_eq_exec {i : Instr} (h : fetch s = .command c u) (hd : decode u.cfg.selW c = .ok i) : step s = exec i u := by
  rw [step_of_decoded h hd, exec_eq_tick]

/-- Settles O10: the command is fetched with its line gone or still there (the fetch equations), and run (step_eq_exec). -/
theorem stepRunsDecodedInstruction : Obligations.StepRunsDecodedInstruction := by
  refine ⟨fun s c rest i hd => ⟨fun hh => ?_, fun hh hr => ?_, fun hh hr hskip => ?_⟩, fun s nbits w i hd => ?_⟩
  · exact step_eq_exec (fetch_present hh) hd
  · exact step_eq_exec (fetch_hold_of_ready hh hr) hd
  · exact step_eq_exec (fetch_hold_of_waiting hh hr hskip) hd
  · exact step_eq_exec (fetch_present (s := s.withFetchWord nbits w) rfl) hd

/-- Settles O11: each line by its fetch equation, a tick (step_of_quiet) or a move that takes none (step_of_moved). -/
theorem scriptLinesTakeTheirTicks : Obligations.ScriptLinesTakeTheirTicks := by
  refine fun s rest => ⟨fun hh => ?_, fun hh hp => ?_, fun hh hp => ?_, fun hh => ?_, fun n hh => ?_, ?_⟩
  · exact step_of_quiet (fetch_nil hh)
  · exact step_of_quiet (fetch_wait_of_busy hh hp)
  · exact step_of_moved (fetch_wait_of_idle hh hp)
  · exact step_of_moved (fetch_idle_zero hh)
  · exact step_of_quiet (fetch_idle_succ hh)
  · rintro c before after hh hf rfl hb
    exact step_of_moved (fetch_hold_of_faulted hh hf hb)

end Sys2Proof.Machine
end

section
/-! SUPPORT. The catalog's commands accepted on a configured line (R81 to R91, R106), and the catalog's constant (R92). -/

namespace Sys2Proof.Machine

/-- Settles O15: exec is one tick with a WRITE of the row's opcode on the port (portsOf_catalogRows), that tick starts the
transaction (State.tick_start), and the frame it loads is its fields side by side (frame_eq_append). -/
theorem catalogCommandsStartTheirFrames : Obligations.CatalogCommandsStartTheirFrames := by
  intro row hrow data sel s d hinv hr hb hl hd
  have hv : validOpcode row.2 = true := (validOpcode_iff_row _).2 ⟨row, hrow, rfl⟩
  have hline : s.blk.csInit.getD sel false = true := by rw [hinv.block.csInit_getD hb, hl]
  rw [exec_eq_tick, portsOf_catalogRows hrow, State.tick_start row.2 data sel s hr hv hb hline hl hd, ← frame_eq_append]
  rfl

/-- The bits that CONTROL_REG_VAL sets (R92): the sixteen positions of the word, and none above it. -/
theorem controlRegVal_getLsbD (i : Nat) : controlRegVal.getLsbD i = true ↔ i = 3 ∨ i = 6 := by
  have hword : ∀ j < 16, controlRegVal.getLsbD j = true ↔ j = 3 ∨ j = 6 := by decide
  by_cases hi : i < 16
  · exact hword i hi
  · have habove : controlRegVal.getLsbD i = false := BitVec.getLsbD_of_ge _ _ (by omega)
    rw [habove, Bool.false_eq_true, false_iff]
    omega

/-- Settles O52: the word and its frame by evaluation, its bits by controlRegVal_getLsbD. -/
theorem controlRegisterConstant : Obligations.ControlRegisterConstant :=
  ⟨rfl, controlRegVal_getLsbD, by decide⟩

end Sys2Proof.Machine
end

section
/-! SUPPORT. The table of R111: while a transaction is in progress its registers and pins, and what the device on its line
holds, follow from the number of ticks that it has left. -/

namespace Sys2Proof.Machine

variable {s : State} {f : Frame} {sel n m : Nat} {clk : Bool} {log : List Deliver}

/-- While nothing is in progress the driven pins are idle and the others undriven (R26 to R28). -/
theorem Block.Inv.pins_of_idle {cfg : Config} {b : Block} (h : b.Inv cfg) (hp : b.phase = .idle) :
    (∀ j, b.csN j = if b.csInit.getD j false then .hi else .z) ∧ (b.sclk = if b.busInit then .hi else .z) ∧
      (b.mosi = if b.busInit then .lo else .z) := by
  obtain ⟨hsh, -, hs⟩ := h.idle hp
  refine ⟨fun j => ?_, by simp [Block.sclk, hs], by simp [Block.mosi, hsh]⟩
  cases hc : b.csInit.getD j false with
  | false => exact (b.csN_eq_z_iff j).2 hc
  | true => exact b.csN_eq_hi_of_idle j hc hp

/-- The pins of a configured line between transactions (R26 to R28). -/
theorem State.Inv.line_pins_of_idle (h : s.Inv) (hp : s.blk.phase = .idle) (hb : s.blk.busInit = true)
    (hl : s.cfg.hasLine sel = true) : s.blk.csN sel = .hi ∧ s.blk.sclk = .hi ∧ s.blk.mosi = .lo := by
  obtain ⟨hcs, hclk, hmosi⟩ := h.block.pins_of_idle hp
  exact ⟨by rw [hcs, h.block.csInit_getD hb, hl]; rfl, by rw [hclk, hb]; rfl, by rw [hmosi, hb]; rfl⟩

/-- Two ticks for each bit left, and one more while the clock is high: the ticks left give BITCNT and SCLK_REG. -/
theorem State.Sending.clock_and_count (h : s.Sending f sel (2 * m + clk.toNat) log) :
    s.blk.sclkReg = clk ∧ s.blk.bitCnt.toNat = m := by
  have hinj : ∀ x y : Bool, x.toNat = y.toNat → x = y := by decide
  have hleft := h.ticksLeft
  have hs := s.blk.sclkReg.toNat_lt
  have hclk := clk.toNat_lt
  exact ⟨hinj _ _ (by omega), by omega⟩

/-- Only the first of the 49 ticks finds the block in SELECTED (R107). -/
theorem State.Sending.phase_eq (h : s.Sending f sel (2 * m + clk.toNat) log) :
    s.blk.phase = if m = 24 ∧ clk = true then .selected else .transmitting := by
  obtain ⟨hs, hm⟩ := h.clock_and_count
  cases hp : s.blk.phase with
  | idle => exact absurd hp h.busy
  | selected =>
    obtain ⟨hcnt, hclk, -⟩ := h.inv.block.selected hp
    rw [if_pos ⟨by rw [← hm, hcnt]; rfl, hs.symm.trans hclk⟩]
  | transmitting =>
    obtain ⟨-, -, hfirst, -⟩ := h.inv.block.transmitting hp
    have hlow (h24 : m = 24) : clk = false := hs.symm.trans (hfirst (BitVec.eq_of_toNat_eq (hm.trans h24)))
    rw [if_neg fun hfst => by simp [hlow hfst.1] at hfst]

/-- The registers of a transaction in progress (R111). -/
theorem State.Sending.blk_eq (h : s.Sending f sel (2 * m + clk.toNat) log) :
    s.blk = { busInit := true, csInit := s.cfg.csMask, faultCause := .noFault,
              phase := if m = 24 ∧ clk = true then .selected else .transmitting, shReg := f <<< (24 - m),
              bitCnt := BitVec.ofNat 5 m, selReg := sel, sclkReg := clk } := by
  obtain ⟨hs, hm⟩ := h.clock_and_count
  obtain ⟨hb, hf, -, -⟩ := h.inv.block.active h.busy
  obtain ⟨d, -, hsh, -, -⟩ := h.device
  have hcnt : s.blk.bitCnt = BitVec.ofNat 5 m := by rw [← hm, BitVec.ofNat_toNat, BitVec.setWidth_eq]
  rw [← h.phase_eq, ← h.inv.block.csInit_eq hb, ← hf, ← hcnt, ← h.line, ← hs, ← hm, ← hsh, ← hb]

/-- The pins of its line: chip select low, the clock, and the frame bit next to be sampled (R26 to R28). -/
theorem State.Sending.pins (h : s.Sending f sel (2 * m + clk.toNat) log) :
    s.blk.csN sel = .lo ∧ s.blk.sclk = Pin.ofBool clk ∧ s.blk.mosi = Pin.ofBool (f.getMsbD (24 - m)) := by
  have hb : s.blk.busInit = true := (h.inv.block.active h.busy).1
  refine ⟨h.csN.1, ?_, ?_⟩
  · rw [s.blk.sclk_eq hb, h.blk_eq]
  · rw [s.blk.mosi_eq hb, h.blk_eq, BitVec.msb_shiftLeft]

/-- After a sampling edge the device on the line has counted it and holds the bit sampled (R53). -/
theorem State.Sending.sampled (h : s.Sending f sel (2 * m) log) :
    ∃ d, s.obs.devs[sel]? = some d ∧ d.cnt = 25 - m ∧ d.sr.getLsbD 0 = f.getLsbD (m - 1) := by
  obtain ⟨hs, hm⟩ := State.Sending.clock_and_count (clk := false) h
  have hle := h.inv.bitCnt_le h.busy
  obtain ⟨d, ha, -, hcnt, hrec⟩ := h.device
  rw [hs, if_neg Bool.false_ne_true] at hcnt
  refine ⟨d, h.line ▸ ha.dev, by omega, ?_⟩
  rw [hrec 0 (by omega)]
  congr 1
  omega

/-- Tick n of a WRITE, up to the 48th, leaves its transaction in progress (R111). -/
theorem State.Inv.sending_after_write (h : s.Inv) {op : Opcode} (data : Data) {ins : List (Option Ports)}
    (hr : s.blk.cmdReady = true) (hb : s.blk.busInit = true) (hv : validOpcode op = true)
    (hl : s.cfg.hasLine sel = true) (hlen : ins.length = 49) (hn : n ≤ 48) :
    (s.ticks ((some (writePorts op data sel) :: ins).take (n + 1))).Sending (frame op data) sel (49 - n)
      s.obs.delivered := by
  have htake : (ins.take n).length = n := by rw [List.length_take]; omega
  have hsend := (h.tick_write_sending data hr hb hv hl).ticks (ins := ins.take n) (by omega)
  rwa [htake] at hsend

/-- The registers after tick n of a WRITE, up to the 48th: those of the idle block but for the sequencer's (R111). -/
theorem State.Inv.blk_after_write (h : s.Inv) {op : Opcode} (data : Data) {ins : List (Option Ports)}
    (hr : s.blk.cmdReady = true) (hb : s.blk.busInit = true) (hv : validOpcode op = true)
    (hl : s.cfg.hasLine sel = true) (hlen : ins.length = 49) (hn : n ≤ 48) (hleft : 49 - n = 2 * m + clk.toNat) :
    (s.ticks ((some (writePorts op data sel) :: ins).take (n + 1))).blk =
      { s.blk with phase := if m = 24 ∧ clk = true then .selected else .transmitting,
                   shReg := frame op data <<< (24 - m), bitCnt := BitVec.ofNat 5 m, selReg := sel,
                   sclkReg := clk } := by
  have hsend := h.sending_after_write data hr hb hv hl hlen hn
  rw [hleft] at hsend
  rw [hsend.blk_eq, State.ticks_cfg, ← h.block.csInit_eq hb, ← hb, ← ((Block.cmdReady_iff _).1 hr).2]

/-- The k-th bit from the top of a frame (R61). -/
theorem getMsbD_eq_and_getLsbD (f : Frame) (k : Nat) : f.getMsbD k = (decide (k < 24) && f.getLsbD (23 - k)) := rfl

/-- Settles O30: after tick n the WRITE's transaction has 49 - n ticks left (State.Inv.sending_after_write), which give
every register, pin and sample of the table's row (blk_after_write, pins, sampled); tick 49 is ticks_of_write's. -/
theorem writeTimeline : Obligations.WriteTimeline := by
  intro s op data sel ins hinv hr hb hv hl hlen f after pins
  have hp : s.blk.phase = .idle := ((Block.cmdReady_iff _).1 hr).1
  have hclk : s.blk.sclkReg = true := (hinv.block.idle hp).2.2
  have hregs {n m : Nat} {clk : Bool} := hinv.blk_after_write (n := n) (m := m) (clk := clk) data hr hb hv hl hlen
  have hsend {n m : Nat} {clk : Bool} (hn : n ≤ 48) (hleft : 49 - n = 2 * m + clk.toNat) :
      (after n).Sending f sel (2 * m + clk.toNat) s.obs.delivered :=
    hleft ▸ hinv.sending_after_write data hr hb hv hl hlen hn
  have hend : (after 49).blk = { s.blk with selReg := sel } := by
    have hall : after 49 = s.ticks (some (writePorts op data sel) :: ins) :=
      congrArg s.ticks (List.take_of_length_le (by simp [hlen]))
    rw [hall, (hinv.ticks_of_write data hr hb hv hl hlen).2]
  refine ⟨exec_eq_tick s (.write op data sel), hinv.line_pins_of_idle hp hb hl, ?_, fun k hk hk' => ⟨?_, ?_⟩,
    ⟨hend, State.Inv.line_pins_of_idle (hinv.ticks _) ?_ ?_ ?_⟩, fun n hn => ?_, ?_⟩
  case refine_1 =>
    have hleft : 49 - 0 = 2 * 24 + true.toNat := rfl
    exact ⟨by rw [hregs (by omega) hleft]; simp [f, hclk], (hsend (by omega) hleft).pins⟩
  case refine_2 =>
    have hleft : 49 - (2 * k - 1) = 2 * (25 - k) + false.toNat := by rw [Bool.toNat_false]; omega
    have h := hsend (by omega) hleft
    have hshift : 24 - (25 - k) = k - 1 := by omega
    have hbit : f.getMsbD (k - 1) = f.getLsbD (24 - k) := by
      rw [getMsbD_eq_and_getLsbD, decide_eq_true (by omega), Bool.true_and, show 23 - (k - 1) = 24 - k by omega]
    obtain ⟨d, hd, hcnt, hsr⟩ := State.Sending.sampled h
    refine ⟨by rw [hregs (by omega) hleft, hshift]; simp [f], ?_, d, hd, by omega, ?_⟩
    · rw [← hbit, ← hshift]
      exact h.pins
    · rw [hsr, show 25 - k - 1 = 24 - k by omega]
  case refine_3 =>
    have hleft : 49 - 2 * k = 2 * (24 - k) + true.toNat := by rw [Bool.toNat_true]; omega
    have hshift : 24 - (24 - k) = k := by omega
    have hlater : ¬ (24 - k = 24 ∧ true = true) := by omega
    refine ⟨by rw [hregs (by omega) hleft, hshift, if_neg hlater], ?_⟩
    rw [← getMsbD_eq_and_getLsbD, ← congrArg f.getMsbD hshift]
    exact (hsend (by omega) hleft).pins
  case refine_4 => rw [hend]; exact hp
  case refine_5 => rw [hend]; exact hb
  case refine_6 => rw [State.ticks_cfg]; exact hl
  case refine_7 => exact Block.cmdReady_of_busy (hinv.sending_after_write data hr hb hv hl hlen hn).busy
  case refine_8 => rw [hend]; exact hr

end Sys2Proof.Machine
end

section
/-! SUPPORT. INIT and WRITE accepted (R103 to R106): a command that starts no transaction changes only the block, in its own
tick, and a WRITE with nothing wrong in it starts one. -/

namespace Sys2Proof.Machine

variable {s : State}

/-- An accepted command that leaves the block idle changes nothing of the machine but the block (R103). -/
theorem exec_of_idle_after {i : Instr} {b : Block} (hr : s.blk.cmdReady = true)
    (ha : s.blk.accept s.cfg (portsOf i) = b) (hp : b.phase = .idle) : exec i s = .next { s with blk := b } := by
  obtain ⟨hidle, hf⟩ := (Block.cmdReady_iff _).1 hr
  have ht : s.blk.tick s.cfg (some (portsOf i)) = b := (s.blk.tick_ready s.cfg hidle hf _).trans ha
  rw [exec_eq_tick, State.tick_idle _ _ hidle (by rw [ht]; exact hp), ht]

/-- An accepted command with something wrong in it records the cause and nothing else (R136). -/
theorem exec_of_raise {i : Instr} {x : Cause} (hr : s.blk.cmdReady = true)
    (ha : s.blk.accept s.cfg (portsOf i) = s.blk.raise x) :
    exec i s = .next { s with blk := { s.blk with faultCause := x } } :=
  exec_of_idle_after hr ha ((Block.cmdReady_iff _).1 hr).1

/-- INIT on an uninitialised bus writes its four registers and nothing else of the machine (R104). -/
theorem exec_init_of_uninit (hr : s.blk.cmdReady = true) (hb : s.blk.busInit = false) :
    exec .init s = .next
      { s with blk := { s.blk with busInit := true, csInit := s.cfg.csMask, sclkReg := true, shReg := 0#24 } } :=
  exec_of_idle_after hr (s.blk.doInit_of_uninit s.cfg hb) ((Block.cmdReady_iff _).1 hr).1

/-- Settles O13: the next state is exec_init_of_uninit's, and its pins and status are functions of its registers. -/
theorem initInitialisesTheBus : Obligations.InitInitialisesTheBus := by
  intro s hr hb
  have hp : s.blk.phase = .idle := ((Block.cmdReady_iff _).1 hr).1
  refine ⟨_, exec_init_of_uninit hr hb, rfl, fun i => ⟨fun hl => ?_, fun hl => ?_⟩, rfl, ?_, ?_, ?_, hr⟩
  · exact Block.csN_eq_hi_of_idle _ i hl hp
  · exact (Block.csN_eq_z_iff _ i).2 hl
  · simp [Block.mosi]
  · simp [Block.busy, hp]
  · exact Block.fault_of_cmdReady hr

/-- The bit that StartWrite puts on mosi is the frame's first (R28, R106). -/
theorem Block.mosi_startWrite {b : Block} (hb : b.busInit = true) (op : Opcode) (data : Data) (sel : Nat) :
    (b.startWrite op data sel).mosi = Pin.ofBool ((frame op data).getLsbD 23) := by
  rw [Block.mosi_eq (b.startWrite op data sel) hb, Block.startWrite_shReg, BitVec.msb_eq_getLsbD_last]

/-- No line but the one written to moves when a transaction starts (R26, R106). -/
theorem Block.csN_startWrite_of_other {b : Block} (hp : b.phase = .idle) (op : Opcode) (data : Data) {sel j : Nat}
    (hj : j ≠ sel) : (b.startWrite op data sel).csN j = b.csN j := by
  simp [Block.csN, hp, hj.symm]

/-- Settles O16: the tick of acceptance is State.tick_start's, and the tick after it SELECTED's (Block.tick_selected). -/
theorem writeStartsItsTransaction : Obligations.WriteStartsItsTransaction := by
  intro op data sel s hinv hr hb hv hl
  obtain ⟨hp, hf⟩ := (Block.cmdReady_iff _).1 hr
  obtain ⟨hcs, hclk, -⟩ := hinv.line_pins_of_idle hp hb hl
  have hs : s.blk.sclkReg = true := (hinv.block.idle hp).2.2
  have hline : s.blk.csInit.getD sel false = true := by rw [hinv.block.csInit_getD hb, hl]
  have hlt : sel < s.obs.devs.length := hinv.devs ▸ Config.lt_nCs_of_hasLine hl
  have ht := State.tick_start op data sel s hr hv hb hline hl (List.getElem?_eq_getElem hlt)
  rw [← frame_eq_append]
  refine ⟨_, (exec_eq_tick s (.write op data sel)).trans (congrArg _ ht), rfl, rfl, rfl, rfl, rfl, rfl, fun j hj => ?_,
    hcs, ?_, fun j hj => Block.csN_startWrite_of_other hp op data hj, hclk, ?_, Block.mosi_startWrite hb op data sel,
    rfl, rfl, fun c => ?_⟩
  · exact List.getElem?_set_ne hj.symm
  · exact Block.csN_eq_lo (s.blk.startWrite op data sel) sel hline (by simp) rfl
  · exact (Block.sclk_eq (s.blk.startWrite op data sel) hb).trans (by simp [hs])
  · rw [State.tick_blk, Block.tick_selected _ (s.blk.startWrite op data sel) c rfl hf]
    exact ⟨Block.sclk_eq _ hb, rfl⟩

/-- A line is ready only on an initialised bus (R33 item 7). -/
theorem Block.Inv.busInit_of_lineReady {cfg : Config} {b : Block} (h : b.Inv cfg) {sel : Nat}
    (hl : b.lineReady cfg sel = true) : b.busInit = true := by
  obtain ⟨-, hcs⟩ | ⟨hb, -⟩ := h.lines
  · have hline := ((b.lineReady_iff cfg sel).1 hl).2
    rw [hcs, List.getD_eq_getElem?_getD, List.getElem?_getD_replicate_default_eq] at hline
    exact absurd hline Bool.false_ne_true
  · exact hb

/-- Settles O17: the four ways of DoWrite and the two of DoInit, each seen by exec (exec_of_raise, exec_init_of_uninit). -/
theorem writeOutcomeTable : Obligations.WriteOutcomeTable := by
  intro s op data sel hinv hr ready
  obtain ⟨hp, hf⟩ := (Block.cmdReady_iff _).1 hr
  have hnoFault : s.blk.fault = false := Block.fault_of_cmdReady hr
  refine ⟨fun hv => ?_, fun hv hb => ?_, fun hv hb hl => ?_, fun hv hb hl => ?_, hinv.block.busInit_of_lineReady,
    fun hb => ⟨_, exec_init_of_uninit hr hb, hnoFault, rfl⟩, fun hb => ?_⟩
  · exact exec_of_raise hr (s.blk.doWrite_invalid s.cfg op data sel hv)
  · exact exec_of_raise hr (s.blk.doWrite_bus s.cfg op data sel hv hb)
  · exact exec_of_raise hr (s.blk.doWrite_sel s.cfg op data sel hv hb hl)
  · have ht : (s.tick (some (writePorts op data sel))).blk = s.blk.startWrite op data sel := by
      rw [State.tick_blk, s.blk.tick_ready s.cfg hp hf, Block.accept_write, s.blk.doWrite_start _ _ _ _ hv hb hl]
    refine ⟨_, exec_eq_tick s (.write op data sel), (congrArg Block.fault ht).trans hnoFault, ?_⟩
    rw [← frame_eq_append]
    exact ht
  · exact exec_of_raise hr (s.blk.doInit_of_init s.cfg hb)

end Sys2Proof.Machine
end

section
/-! SUPPORT. The sequencer tick by tick (R101, R107 to R110): a block that is idle, faulted or busy, and what the device on
the line sees of each tick of a transaction. -/

namespace Sys2Proof.Machine

variable {s : State} {d : Device} {cfg : Config} {b : Block}

/-! ### A block that does not read the port -/

/-- In IDLE a tick with no command changes nothing (R101). -/
theorem State.tick_none_of_idle (hp : s.blk.phase = .idle) : s.tick none = s := by
  have ht := s.blk.tick_idle_none s.cfg hp
  rw [State.tick_idle _ _ hp (by rw [ht]; exact hp), ht]

/-- In FAULTED, with nothing in progress, a tick changes nothing (R117). -/
theorem State.tick_of_faulted (hf : s.blk.faultCause ≠ .noFault) (hp : s.blk.phase = .idle) (c : Option Ports) :
    s.tick c = s := by
  have ht := s.blk.tick_faulted s.cfg c hf
  rw [State.tick_idle _ _ hp (by rw [ht]; exact hp), ht]

/-- A machine whose block is not ready goes on as if nothing were on the port (R102). -/
theorem State.tick_of_not_ready (hr : s.blk.cmdReady = false) (c : Option Ports) : s.tick c = s.tick none := by
  unfold State.tick
  rw [s.blk.tick_not_ready s.cfg c hr none]

/-- Settles O51: a tick with no command in IDLE (State.tick_none_of_idle), and what over and final then say. -/
theorem idleTickChangesNothing : Obligations.IdleTickChangesNothing := by
  intro s hp
  refine ⟨State.tick_none_of_idle hp, fun hh => ⟨?_, ?_⟩⟩
  · rw [step_of_quiet (fetch_nil hh), State.tick_none_of_idle hp]
  · have hover : s.over = (!s.skipped || s.blk.fault) := by
      cases hf : s.blk.fault <;> simp [State.over, State.allAccepted, Block.busy, hp, hh, hf]
    refine ⟨hover, ?_⟩
    rw [State.final, hover, State.noFault]
    cases s.blk.fault <;> simp

/-- Settles O25: exec is one tick (exec_eq_tick), and a block that is not ready does not read the port. -/
theorem busyBlockIgnoresThePort : Obligations.BusyBlockIgnoresThePort := by
  intro s i hr
  rw [exec_eq_tick, State.tick_of_not_ready hr]

/-- Settles O23: FAULTED is idle (R33 item 6), so a tick changes nothing and the pins are the idle bus's; a step that is no
RESET line is such a tick or moves the script only. -/
theorem faultedIsInert : Obligations.FaultedIsInert := by
  intro s hinv hf
  have hp := hinv.block.faulted hf
  have htick := State.tick_of_faulted hf hp
  obtain ⟨hcs, hclk, hmosi⟩ := hinv.block.pins_of_idle hp
  refine ⟨htick, fun i => by rw [exec_eq_tick, htick], s.blk.cmdReady_eq_false_iff.2 (.inr hf), hcs, hclk, hmosi,
    fun t hs hreset => ?_⟩
  obtain ⟨rest, rfl⟩ | ⟨_, _, -, -, -, rfl⟩ | ⟨rest, hhost, -⟩ | ⟨rest, c, rfl, -⟩ := step_cases s t hs
  · exact ⟨rfl, rfl⟩
  · exact ⟨rfl, rfl⟩
  · simp [hhost] at hreset
  · rw [State.tick_of_faulted (s := s.withHost rest) hf hp]
    exact ⟨rfl, rfl⟩

/-! ### The ticks of a transaction -/

/-- The device that the observer holds for the selected line is the one of a transaction in progress. -/
theorem State.Inv.active_of_dev (h : s.Inv) (hp : s.blk.phase ≠ .idle) (hd : s.obs.devs[s.blk.selReg]? = some d) :
    s.Active d := by
  obtain ⟨d', ha⟩ := h.active hp
  obtain rfl : d = d' := Option.some.inj (hd.symm.trans ha.dev)
  exact ha

/-- Settles O26: the first falling edge (State.Active.tick_selected). -/
theorem selectedTick : Obligations.SelectedTick := by
  intro s d c hinv hp hd
  have ha := hinv.active_of_dev (by simp [hp]) hd
  obtain ⟨hcnt, hs, -⟩ := hinv.block.selected hp
  have ht := ha.tick_selected c hp hs
  refine ⟨by rw [ht, BitVec.msb_eq_getLsbD_last], ?_, ?_, hcnt⟩
  · rw [s.blk.sclk_eq ha.bus, hs, Pin.ofBool_true]
  · rw [ht]
    exact Block.sclk_eq _ ha.bus

/-- A tick changes mosi only when it shifts SHREG or accepts a command (R28, R108). -/
theorem Block.tick_mosi {c : Option Ports} (hlow : b.phase = .transmitting → b.sclkReg = true)
    (hc : b.cmdReady = true → c = none) : (b.tick cfg c).mosi = b.mosi := by
  obtain ⟨-, ht⟩ | ⟨-, -, -, ht⟩ | ⟨hf, hp, p, rfl, -⟩ | ⟨-, -, ht⟩ | ⟨-, hp, hs, -⟩ | ⟨-, -, -, -, ht⟩ |
    ⟨-, -, -, -, ht⟩ := b.tick_cases cfg c
  case inr.inr.inl => cases hc (b.cmdReady_iff.2 ⟨hp, hf⟩)
  case inr.inr.inr.inr.inl => simp [hlow hp] at hs
  all_goals exact (congrArg Block.mosi ht).trans rfl

/-- Settles O27: the shift of State.Active.tick_rising, whose 24th leaves no bit (shReg_eq_zero_of_sent), and
Block.tick_mosi. -/
theorem risingTick : Obligations.RisingTick := by
  intro s c hinv
  refine ⟨fun hp hs => ?_, fun hne => ?_⟩
  · have hbusy : s.blk.phase ≠ .idle := by simp [hp]
    obtain ⟨d, ha⟩ := hinv.active hbusy
    have ht := ha.tick_rising c hp hs
    have hp' : (s.tick c).blk.phase = .transmitting := by rw [ht]; exact hp
    have hb' : (s.tick c).blk.busInit = true := by rw [ht]; exact ha.bus
    have hmosi := (s.tick c).blk.mosi_eq hb'
    refine ⟨ht, (hinv.of_clock_low hbusy hs).2, ?_, fun h1 => ?_⟩
    · rw [hmosi, ht, BitVec.msb_shiftLeft]
      rfl
    · have hcnt : (s.tick c).blk.bitCnt = 0#5 := by
        rw [ht]
        simp [h1]
      obtain ⟨-, hframe, -, -⟩ := (hinv.tick c).block.transmitting hp'
      have hsh := shReg_eq_zero_of_sent hcnt hframe
      exact ⟨hsh, hcnt, by rw [hmosi, hsh]; rfl⟩
  · by_contra hno
    rw [not_or, not_and, not_and, Bool.not_eq_false, not_ne_iff] at hno
    exact hne (Block.tick_mosi hno.1 hno.2)

/-- Settles O28: State.Active.tick_falling, and the bit on mosi by the number of bits left (msb_shiftLeft_sub). -/
theorem fallingTick : Obligations.FallingTick := by
  intro s d c hinv hp hs hn hd
  have ha := hinv.active_of_dev (by simp [hp]) hd
  have hmsb : s.blk.shReg.msb = s.blk.shReg.getLsbD 23 := BitVec.msb_eq_getLsbD_last _
  refine ⟨by rw [ha.tick_falling c hp hs hn, hmsb], by rw [s.blk.mosi_eq ha.bus, hmsb], fun f hf => ?_⟩
  have hpos : s.blk.bitCnt.toNat ≠ 0 := fun h0 => hn (BitVec.eq_of_toNat_eq h0)
  rw [← hmsb, hf, msb_shiftLeft_sub f hpos (hinv.bitCnt_le (by simp [hp]))]

/-- Settles O29: State.Active.tick_release, the pins before it being the low line's and those after it the idle bus's. -/
theorem releaseTick : Obligations.ReleaseTick := by
  intro s d c hinv hp hs hn hd
  have hbusy : s.blk.phase ≠ .idle := by simp [hp]
  have ha := hinv.active_of_dev hbusy hd
  have ht := ha.tick_release c hp hs hn
  have hp' : (s.tick c).blk.phase = .idle := by rw [ht]
  have hb' : (s.tick c).blk.busInit = true := by rw [ht]; exact ha.bus
  have hf' : (s.tick c).blk.faultCause = .noFault := by rw [ht]; exact ha.noFault
  have hsel : s.cfg.hasLine s.blk.selReg = true := ha.hasLine
  obtain ⟨hcs, hclk, hmosi⟩ := (hinv.tick c).line_pins_of_idle hp' hb' hsel
  have hsh : s.blk.shReg = 0#24 := by
    have h := ((hinv.tick c).block.idle hp').1
    rwa [ht] at h
  refine ⟨ht, ha.cs_lo hbusy, hcs, ?_, hclk, ?_, hmosi, s.blk.busy_iff.2 hbusy, ?_,
    (Block.cmdReady_iff _).2 ⟨hp', hf'⟩, (hinv.tick c).block.idle hp'⟩
  · rw [s.blk.sclk_eq ha.bus, hs, Pin.ofBool_true]
  · rw [s.blk.mosi_eq ha.bus, hsh]
    rfl
  · rw [ht]
    rfl

/-! ### The end of a transaction -/

/-- The ticks to the end of the transaction in progress (R111). -/
def Block.ticksLeft (b : Block) : Nat := 2 * b.bitCnt.toNat + b.sclkReg.toNat

/-- 49 in SELECTED and at most 48 in TRANSMITTING (R33, R111). -/
theorem Block.Inv.ticksLeft_le (h : b.Inv cfg) (hp : b.phase ≠ .idle) : b.ticksLeft ≤ 49 := by
  have hs := b.sclkReg.toNat_le
  unfold Block.ticksLeft
  cases hph : b.phase with
  | idle => exact absurd hph hp
  | selected =>
    have hcnt : b.bitCnt.toNat = 24 := by rw [(h.selected hph).1]; rfl
    omega
  | transmitting =>
    have hcnt := (h.transmitting hph).1
    omega

/-- A tick of a transaction in progress takes one of its ticks, and it is over with the last (R107 to R110). -/
theorem Block.Inv.tick_ticksLeft (h : b.Inv cfg) (hp : b.phase ≠ .idle) (c : Option Ports) :
    (b.ticksLeft = 1 ∧ (b.tick cfg c).phase = .idle ∧ (b.tick cfg c).faultCause = .noFault) ∨
      ((b.tick cfg c).phase ≠ .idle ∧ b.ticksLeft = (b.tick cfg c).ticksLeft + 1) := by
  obtain ⟨hf, -⟩ | ⟨-, hidle, -⟩ | ⟨-, hidle, -⟩ | ⟨-, hph, ht⟩ | ⟨-, hph, hs, ht⟩ | ⟨-, -, hs, -, ht⟩ |
    ⟨hf, -, hs, hn, ht⟩ := b.tick_cases cfg c
  · exact absurd (h.active hp).2.1 hf
  · exact absurd hidle hp
  · exact absurd hidle hp
  · obtain ⟨-, hs, -⟩ := h.selected hph
    exact .inr ⟨by simp [ht], by simp [ht, Block.ticksLeft, hs]⟩
  · obtain ⟨-, -, -, hcount⟩ := h.transmitting hph
    have hpos : b.bitCnt.toNat ≠ 0 := fun h0 => hcount hs (BitVec.eq_of_toNat_eq h0)
    refine .inr ⟨by simp [ht, hph], ?_⟩
    simp only [ht, Block.ticksLeft, hs, Bool.toNat_true, Bool.toNat_false, bitCnt_pred_toNat (hcount hs)]
    omega
  · exact .inr ⟨by simp [ht, hp], by simp [ht, Block.ticksLeft, hs]⟩
  · exact .inl ⟨by simp [Block.ticksLeft, hs, hn], by simp [ht], by simp [ht, hf]⟩

/-- A transaction in progress is over when its ticks are, whatever the host presents (R119). -/
theorem State.Inv.ticks_of_ticksLeft (h : s.Inv) (hp : s.blk.phase ≠ .idle) {ins : List (Option Ports)}
    (hlen : ins.length = s.blk.ticksLeft) :
    (s.ticks ins).blk.phase = .idle ∧ (s.ticks ins).blk.faultCause = .noFault := by
  induction ins generalizing s with
  | nil =>
    rw [List.length_nil] at hlen
    obtain ⟨hlast, -⟩ | ⟨-, hleft⟩ := h.block.tick_ticksLeft hp none <;> omega
  | cons c cs ih =>
    rw [List.length_cons] at hlen
    obtain ⟨hlast, hend⟩ | ⟨hp', hleft⟩ := h.block.tick_ticksLeft hp c
    · obtain rfl : cs = [] := List.length_eq_zero_iff.1 (by omega)
      exact hend
    · exact ih (h.tick c) hp' (by rw [State.tick_blk]; omega)

/-- Settles O33: the ticks left are at most 49 (ticksLeft_le), and with them the transaction is over. -/
theorem busyBlockCompletes : Obligations.BusyBlockCompletes :=
  fun s hinv hp => ⟨s.blk.ticksLeft, hinv.block.ticksLeft_le hp, fun _ hlen => hinv.ticks_of_ticksLeft hp hlen⟩

end Sys2Proof.Machine
end

section
/-! SUPPORT. The end of a run (R119): what over says, and that no step of a run that is over moves it on. -/

namespace Sys2Proof.Machine

variable {s t : State}

/-- A run is over when nothing is in progress, and in FAULTED no RESET line is left, without a fault no command (R119). -/
theorem State.over_iff :
    s.over = true ↔ s.blk.phase = .idle ∧
      (s.blk.faultCause ≠ .noFault → ∀ l ∈ s.host, l.isReset = false) ∧
      (s.blk.faultCause = .noFault → s.skipped = false ∧ ∀ l ∈ s.host, l.isCommand = false) := by
  by_cases hf : s.blk.faultCause = .noFault <;>
    simp [State.over, State.allAccepted, Block.busy, Block.fault, hf]

/-- A run has ended well when it is over without a fault (R119, R141). -/
theorem State.final_iff : s.final = true ↔ s.over = true ∧ s.blk.faultCause = .noFault := by
  simp [State.final, State.noFault, Block.fault]

theorem State.final_eq (ho : t.over = s.over) (hf : t.blk.faultCause = s.blk.faultCause) : t.final = s.final := by
  rw [State.final, State.final, ho, State.noFault, State.noFault, Block.fault, Block.fault, hf]

/-- A run that is over stays over while the block is as it was and no line comes into the script but a TICK's. -/
theorem State.over_of_same_block (ho : s.over = true) (hb : t.blk = s.blk) (hsk : t.skipped = s.skipped)
    (hl : ∀ l ∈ t.host, l ∈ s.host ∨ ∃ n, l = .idle n) : t.over = true := by
  obtain ⟨hp, hfault, hok⟩ := State.over_iff.1 ho
  refine State.over_iff.2 ⟨by rw [hb]; exact hp, fun hf l hmem => ?_, fun hf => ⟨?_, fun l hmem => ?_⟩⟩
  · obtain hmem | ⟨n, rfl⟩ := hl l hmem
    · exact hfault (hb ▸ hf) l hmem
    · rfl
  · exact hsk.trans (hok (hb ▸ hf)).1
  · obtain hmem | ⟨n, rfl⟩ := hl l hmem
    · exact (hok (hb ▸ hf)).2 l hmem
    · rfl

/-- When a run is over a tick with what the script may still present leaves the block as it is: without a fault that is
nothing (R101, R117). -/
theorem State.tick_blk_of_over (ho : s.over = true) {c : Option Ports}
    (hc : c ≠ none → ∃ l, s.host.head? = some l ∧ l.isCommand = true) : s.blk.tick s.cfg c = s.blk := by
  obtain ⟨hp, -, hok⟩ := State.over_iff.1 ho
  by_cases hf : s.blk.faultCause = .noFault
  · cases c with
    | none => exact s.blk.tick_idle_none s.cfg hp
    | some p =>
      obtain ⟨l, hl, hcmd⟩ := hc (by simp)
      have hno := (hok hf).2 l (List.mem_of_mem_head? hl)
      exact absurd (hno.symm.trans hcmd) Bool.false_ne_true
  · exact s.blk.tick_faulted s.cfg c hf

/-- A run that is over stays over, with or without its fault as before (R119). -/
theorem State.over_step (ho : s.over = true) (hs : step s = .next t) :
    t.over = true ∧ t.blk.faultCause = s.blk.faultCause := by
  obtain ⟨hp, hfault, hok⟩ := State.over_iff.1 ho
  have hlines := step_lines s hs
  obtain ⟨rest, rfl⟩ | ⟨c, rest, hhost, hf, hreset, -⟩ | ⟨rest, hhost, rfl⟩ | ⟨rest, c, rfl, hc⟩ := step_cases s t hs
  · exact ⟨State.over_of_same_block ho rfl rfl hlines, rfl⟩
  · obtain ⟨l, hl, hlr⟩ := List.any_eq_true.1 hreset
    have hno := hfault (s.blk.fault_iff.1 hf) l (hhost ▸ List.mem_cons_of_mem _ hl)
    exact absurd (hno.symm.trans hlr) Bool.false_ne_true
  · have hf : s.blk.faultCause = .noFault := by
      by_contra hf
      exact absurd (hfault hf .reset (hhost ▸ List.mem_cons_self)) (by decide)
    obtain ⟨hsk, hcmd⟩ := hok hf
    refine ⟨State.over_iff.2 ⟨rfl, fun h => absurd rfl h, fun _ => ⟨hsk, fun l hl => ?_⟩⟩, hf.symm⟩
    exact hcmd l (hhost ▸ List.mem_cons_of_mem _ hl)
  · have hblk : ((s.withHost rest).tick c).blk = s.blk := State.tick_blk_of_over ho hc
    exact ⟨State.over_of_same_block ho hblk rfl hlines, by rw [hblk]⟩

/-- A step skips a command only in FAULTED, a held one, with a RESET line to come (R72). -/
theorem step_skipped (hs : step s = .next t) :
    t.skipped = s.skipped ∨ (t.skipped = true ∧
      s.blk.faultCause ≠ .noFault ∧ HostLine.reset ∈ s.host ∧ ∃ c, s.host.head? = some (.hold c)) := by
  obtain ⟨_, rfl⟩ | ⟨c, rest, hhost, hf, hreset, rfl⟩ | ⟨_, -, rfl⟩ | ⟨_, _, rfl, -⟩ := step_cases s t hs
  · exact .inl rfl
  · obtain ⟨l, hl, hlr⟩ := List.any_eq_true.1 hreset
    have hl' : l = .reset := by cases l <;> simp [HostLine.isReset] at hlr ⊢
    refine .inr ⟨rfl, s.blk.fault_iff.1 hf, ?_, c, by rw [hhost]; rfl⟩
    rw [hhost, ← hl']
    exact List.mem_cons_of_mem _ hl
  · exact .inl rfl
  · exact .inl rfl

/-- Settles O53: what a step leaves of a run that is over (State.over_step) and of the skipped lines (step_skipped); the other
clauses are over_iff and final_iff read the other way. -/
theorem overRunsStayOver : Obligations.OverRunsStayOver := by
  intro s
  refine ⟨fun t ho hs => ?_, fun hf => ?_, fun hf hreset => ?_, fun hp => ?_, fun hf c hc => ?_, fun hf hsk => ?_,
    fun t hs hsk => ?_, fun t hs hno hsk => ?_⟩
  · obtain ⟨ho', hf'⟩ := State.over_step ho hs
    exact ⟨ho', State.final_eq (ho'.trans ho.symm) hf'⟩
  · exact Bool.eq_false_iff.2 fun h => hf (State.final_iff.1 h).2
  · exact Bool.eq_false_iff.2 fun h => absurd ((State.over_iff.1 h).2.1 hf _ hreset) (by decide)
  · exact Bool.eq_false_iff.2 fun h => hp (State.over_iff.1 h).1
  · refine Bool.eq_false_iff.2 fun h => ?_
    obtain ⟨-, hcmd⟩ := (State.over_iff.1 h).2.2 hf
    obtain hc | hc := hc <;> cases hcmd _ hc
  · refine Bool.eq_false_iff.2 fun h => ?_
    simpa [hsk] using ((State.over_iff.1 h).2.2 hf).1
  · obtain h | ⟨h, -⟩ := step_skipped hs
    · rw [h, hsk]
    · exact h
  · obtain h | ⟨-, h⟩ := step_skipped hs
    · simp [hsk, hno] at h
    · exact h

end Sys2Proof.Machine
end

section
/-! SUPPORT. The four faults (60_exceptions.md): each command with something wrong in it records its cause (R131 to R134,
R137), and nothing else of the machine moves then or later (R136). -/

namespace Sys2Proof.Machine

variable {s t : State} {b : Block} {cfg : Config} {data : Data} {sel : Nat}

/-! ### The cause codes -/

theorem Cause.code_toNat_le (x : Cause) : x.code.toNat ≤ 4 := by cases x <;> decide

/-- Only the absence of a fault has code 0 (R137). -/
theorem Cause.code_eq_zero_iff (x : Cause) : x.code = 0#3 ↔ x = .noFault := by cases x <;> decide

theorem Block.fault_eq_false_iff : b.fault = false ↔ b.faultCause = .noFault := by simp [Block.fault]

/-- Settles O24: the codes by definition, and what fault_cause shows is one of them. -/
theorem causeCodes : Obligations.CauseCodes :=
  ⟨rfl, rfl, rfl, rfl, rfl, fun b =>
    ⟨b.faultCause.code_toNat_le, b.faultCause.code_eq_zero_iff.trans Block.fault_eq_false_iff.symm⟩⟩

/-! ### What raises each fault -/

/-- Settles O14: DoInit raises DoubleInit on an initialised bus (Block.doInit_of_init). -/
theorem secondInitFaults : Obligations.SecondInitFaults :=
  fun s hr hb => ⟨exec_of_raise hr (s.blk.doInit_of_init s.cfg hb), rfl⟩

/-- Settles O19: the first check of DoWrite (Block.doWrite_invalid); the reserved opcodes are read off the sixteen values. -/
theorem invalidOpcodeFault : Obligations.InvalidOpcodeFault := by
  have hreserved : ∀ op : Opcode, validOpcode op = false ↔ op ∈ [0x5#4, 0x6#4, 0x8#4, 0xD#4, 0xE#4] := by decide
  exact ⟨hreserved, rfl, fun op data sel s hr hv => exec_of_raise hr (s.blk.doWrite_invalid s.cfg op data sel hv)⟩

/-- What every WRITE with a valid opcode does, every catalog command does (R93). -/
theorem exec_catalogRows_of_exec_write {r : Host.Outcome State Fault Refusal}
    (h : ∀ op, validOpcode op = true → exec (.write op data sel) s = r) : ∀ row ∈ catalogRows, exec (row.1 data sel) s = r :=
  fun row hrow =>
    (mnemonicAndRawFormsAgree row hrow data sel s).trans (h row.2 ((validOpcode_iff_row _).2 ⟨row, hrow, rfl⟩))

/-- Settles O20: the second check of DoWrite (Block.doWrite_bus). -/
theorem busUninitFault : Obligations.BusUninitFault := by
  intro data sel s hr hb
  have hraw : ∀ op, validOpcode op = true →
      exec (.write op data sel) s = .next { s with blk := { s.blk with faultCause := .busUninit } } :=
    fun op hv => exec_of_raise hr (s.blk.doWrite_bus s.cfg op data sel hv hb)
  exact ⟨hraw, exec_catalogRows_of_exec_write hraw, rfl⟩

/-- A line is not ready when it does not exist or is not configured (R133). -/
theorem Block.lineReady_eq_false (h : cfg.nCs ≤ sel ∨ b.csInit.getD sel false = false) : b.lineReady cfg sel = false := by
  rw [← Bool.not_eq_true, Block.lineReady_iff, not_and_or, not_lt, Bool.not_eq_true]
  exact h

/-- Settles O21: the third check of DoWrite (Block.doWrite_sel). -/
theorem selUninitFault : Obligations.SelUninitFault := by
  intro data sel s hr hb hline
  have hraw : ∀ op, validOpcode op = true →
      exec (.write op data sel) s = .next { s with blk := { s.blk with faultCause := .selUninit } } :=
    fun op hv => exec_of_raise hr (s.blk.doWrite_sel s.cfg op data sel hv hb (Block.lineReady_eq_false hline))
  exact ⟨hraw, exec_catalogRows_of_exec_write hraw, rfl⟩

/-! ### Fault entry -/

/-- The block after the tick of a command that it accepts (R103). -/
theorem State.tick_blk_of_ready (hr : s.blk.cmdReady = true) (p : Ports) :
    (s.tick (some p)).blk = s.blk.accept s.cfg p := by
  obtain ⟨hp, hf⟩ := (Block.cmdReady_iff _).1 hr
  exact s.blk.tick_ready s.cfg hp hf p

/-- A command accepted with a fault after it recorded the cause and nothing else: INIT and the start of a transaction leave
FAULT_CAUSE as it is (R136). -/
theorem exec_eq_raise_of_fault {i : Instr} (hr : s.blk.cmdReady = true) (ht : exec i s = .next t)
    (hf : t.blk.fault = true) : ∃ x, x ≠ .noFault ∧ t = { s with blk := { s.blk with faultCause := x } } := by
  have hnone : s.blk.faultCause = .noFault := ((Block.cmdReady_iff _).1 hr).2
  have hblk : t.blk = s.blk.accept s.cfg (portsOf i) := by
    rw [exec_eq_tick] at ht
    cases ht
    exact State.tick_blk_of_ready hr _
  rw [Block.fault_iff, hblk] at hf
  obtain ⟨x, hx, ha⟩ | ⟨-, ha⟩ | ⟨-, -, -, ha⟩ := s.blk.accept_cases s.cfg (portsOf i)
  · rw [exec_of_raise hr ha] at ht
    cases ht
    exact ⟨x, hx, rfl⟩
  · exact absurd hnone (by rwa [ha] at hf)
  · exact absurd hnone (by rwa [ha] at hf)

/-- In FAULTED no number of ticks changes anything, whatever the host presents (R117). -/
theorem State.ticks_of_faulted (hf : s.blk.faultCause ≠ .noFault) (hp : s.blk.phase = .idle) (ins : List (Option Ports)) :
    s.ticks ins = s := by
  induction ins with
  | nil => rfl
  | cons c cs ih => rw [State.ticks_cons, State.tick_of_faulted hf hp, ih]

/-- Settles O22: only the cause is written (exec_eq_raise_of_fault), which no pin shows; the pins are those of an idle block,
and FAULTED is inert (State.ticks_of_faulted). -/
theorem faultEntryMovesNothingElse : Obligations.FaultEntryMovesNothingElse := by
  intro s t i hinv hr ht hf
  obtain ⟨x, hx, rfl⟩ := exec_eq_raise_of_fault hr ht hf
  have hp : s.blk.phase = .idle := ((Block.cmdReady_iff _).1 hr).1
  obtain ⟨hcs, hclk, hmosi⟩ := hinv.block.pins_of_idle hp
  refine ⟨⟨x, hx, rfl, rfl⟩, ⟨hp, hinv.block.idle hp⟩, mt x.code_eq_zero_iff.1 hx,
    (Block.cmdReady_eq_false_iff _).2 (.inr hx), ?_, fun j => ⟨rfl, ?_⟩, ⟨rfl, ?_⟩, ⟨rfl, ?_⟩,
    State.ticks_of_faulted hx hp⟩
  · simp [Block.busy, hp]
  · exact (ite_eq_or_eq _ _ _).imp (hcs j).trans (hcs j).trans
  · exact (ite_eq_or_eq _ _ _).imp hclk.trans hclk.trans
  · exact (ite_eq_or_eq _ _ _).imp hmosi.trans hmosi.trans

end Sys2Proof.Machine
end

section
/-! SUPPORT. The three modes (R146): what each says of the registers and the pins, and the ways from one to another (R147),
a RESET line among them (R140, R160). -/

namespace Sys2Proof.Machine

variable {s t : State} {b : Block} {cfg : Config} {c : Option Ports}

/-! ### The modes as conditions on the registers -/

theorem Block.mode_eq_faulted_iff : b.mode = .faulted ↔ b.faultCause ≠ .noFault := by
  cases hb : b.busInit <;> by_cases hf : b.faultCause = .noFault <;> simp [Block.mode, hb, hf]

theorem Block.mode_eq_ready_iff : b.mode = .ready ↔ b.faultCause = .noFault ∧ b.busInit = true := by
  cases hb : b.busInit <;> by_cases hf : b.faultCause = .noFault <;> simp [Block.mode, hb, hf]

theorem Block.mode_eq_uninit_iff : b.mode = .uninit ↔ b.faultCause = .noFault ∧ b.busInit = false := by
  cases hb : b.busInit <;> by_cases hf : b.faultCause = .noFault <;> simp [Block.mode, hb, hf]

/-- Before INIT no transaction can be in progress (R33 item 1). -/
theorem Block.Inv.phase_of_uninit (h : b.Inv cfg) (hb : b.busInit = false) : b.phase = .idle := by
  by_contra hp
  exact absurd ((h.active hp).1.symm.trans hb) Bool.noConfusion

/-- In UNINIT every command is accepted (R146). -/
theorem Block.Inv.cmdReady_of_uninit (h : b.Inv cfg) (hm : b.mode = .uninit) : b.cmdReady = true := by
  obtain ⟨hf, hb⟩ := Block.mode_eq_uninit_iff.1 hm
  exact b.cmdReady_iff.2 ⟨h.phase_of_uninit hb, hf⟩

/-- Before INIT no pin is driven (R26 to R28, R33 item 7). -/
theorem Block.Inv.pins_of_uninit (h : b.Inv cfg) (hb : b.busInit = false) :
    (∀ i, b.csN i = .z) ∧ b.sclk = .z ∧ b.mosi = .z := by
  obtain ⟨-, hcs⟩ | ⟨hb', -⟩ := h.lines
  · refine ⟨fun i => (b.csN_eq_z_iff i).2 ?_, by simp [Block.sclk, hb], by simp [Block.mosi, hb]⟩
    rw [hcs, List.getD_eq_getElem?_getD, List.getElem?_getD_replicate_default_eq]
  · simp [hb] at hb'

/-- Settles O43: each mode read as its registers; before INIT no pin is driven (Block.Inv.pins_of_uninit), and FAULTED is
idle (R33 item 6). -/
theorem modesAndPins : Obligations.ModesAndPins := by
  refine fun s hinv => ⟨fun hm => ?_, fun hm => ?_, fun hm => ?_⟩
  · exact ⟨hinv.block.cmdReady_of_uninit hm, hinv.block.pins_of_uninit (Block.mode_eq_uninit_iff.1 hm).2⟩
  · obtain ⟨hf, hb⟩ := Block.mode_eq_ready_iff.1 hm
    refine ⟨?_, fun i => ?_, ?_, ?_⟩
    · rw [Block.cmdReady_iff, and_iff_left hf]
    · rw [Block.csN_eq_z_iff, hinv.block.csInit_getD hb]
    · rw [s.blk.sclk_eq hb]
      exact Pin.ofBool_ne_z _
    · rw [s.blk.mosi_eq hb]
      exact Pin.ofBool_ne_z _
  · have hf := Block.mode_eq_faulted_iff.1 hm
    refine ⟨s.blk.cmdReady_eq_false_iff.2 (.inr hf), ?_⟩
    cases hb : s.blk.busInit with
    | false => exact .inl (hinv.block.pins_of_uninit hb)
    | true =>
      obtain ⟨hcs, hclk, hmosi⟩ := hinv.block.pins_of_idle (hinv.block.faulted hf)
      exact .inr ⟨fun i hl => by rw [hcs, hinv.block.csInit_getD hb, hl]; rfl, by rw [hclk, hb]; rfl,
        by rw [hmosi, hb]; rfl⟩

/-! ### A RESET line -/

theorem fetch_reset {rest : List HostLine} (hh : s.host = .reset :: rest) :
    fetch s = .moved (s.withHost rest).resetPulse := by simp [fetch, hh]

/-- Settles O45: the line moves the script and pulses reset (fetch_reset); the pulse leaves the reset values, and the observer
sees nothing of it in IDLE (State.resetPulse_of_idle). -/
theorem resetFromAnyState : Obligations.ResetFromAnyState := by
  intro s rest hh
  refine ⟨_, step_of_moved (fetch_reset hh), rfl, rfl, rfl, rfl, fun i => Block.csN_reset i s.cfg, rfl, rfl, rfl, fun hp => ?_⟩
  rw [State.resetPulse_of_idle (s := s.withHost rest) hp]
  rfl

/-- A step that is no RESET line leaves the block as it is, or is a tick of it (R72). -/
theorem step_blk_of_no_reset (hs : step s = .next t) (hreset : s.host.head? ≠ some .reset) :
    t.blk = s.blk ∨ ∃ c, t.blk = s.blk.tick s.cfg c := by
  obtain ⟨_, rfl⟩ | ⟨_, _, -, -, -, rfl⟩ | ⟨_, hhost, -⟩ | ⟨_, c, rfl, -⟩ := step_cases s t hs
  · exact .inl rfl
  · exact .inl rfl
  · simp [hhost] at hreset
  · exact .inr ⟨c, rfl⟩

/-! ### The modes along a tick -/

/-- A tick that accepts no command keeps the mode: it writes neither FAULT_CAUSE nor BUS_INIT (R147). -/
theorem Block.tick_mode (h : b.cmdReady = true → c = none) : (b.tick cfg c).mode = b.mode := by
  obtain ⟨-, ht⟩ | ⟨-, -, -, ht⟩ | ⟨hf, hp, p, rfl, -⟩ | ⟨-, -, ht⟩ | ⟨-, -, -, ht⟩ | ⟨-, -, -, -, ht⟩ |
    ⟨-, -, -, -, ht⟩ := b.tick_cases cfg c
  case inr.inr.inl => cases h (b.cmdReady_iff.2 ⟨hp, hf⟩)
  all_goals exact (congrArg Block.mode ht).trans rfl

/-- A tick of a busy block goes on from SELECTED to TRANSMITTING, and never back to SELECTED (R107 to R110). -/
theorem Block.tick_phase_of_busy (hf : b.faultCause = .noFault) (hp : b.phase ≠ .idle) :
    (b.phase = .selected ∧ (b.tick cfg c).phase = .transmitting) ∨
      (b.phase = .transmitting ∧ (b.tick cfg c).phase ≠ .selected) := by
  obtain ⟨hf', -⟩ | ⟨-, hidle, -⟩ | ⟨-, hidle, -⟩ | ⟨-, hph, ht⟩ | ⟨-, hph, -, ht⟩ | ⟨-, hph, -, -, ht⟩ |
    ⟨-, hph, -, -, ht⟩ := b.tick_cases cfg c
  · exact absurd hf hf'
  · exact absurd hidle hp
  · exact absurd hidle hp
  · exact .inl ⟨hph, by rw [ht]⟩
  all_goals exact .inr ⟨hph, by simp [ht, hph]⟩

/-- No accepted command leads to UNINIT: it faults, or the bus is initialised after it (R147). -/
theorem Block.accept_mode_ne_uninit (p : Ports) : (b.accept cfg p).mode ≠ .uninit := by
  rw [Ne, Block.mode_eq_uninit_iff]
  rintro ⟨hf, hb⟩
  obtain ⟨x, hx, ha⟩ | ⟨-, ha⟩ | ⟨-, hb', -, ha⟩ := b.accept_cases cfg p <;> rw [ha] at hf hb
  · exact hx hf
  · cases hb
  · exact absurd (hb'.symm.trans hb) Bool.noConfusion

/-- No tick leads back to UNINIT (R147). -/
theorem Block.tick_mode_ne_uninit (h : b.mode ≠ .uninit) (c : Option Ports) : (b.tick cfg c).mode ≠ .uninit := by
  by_cases hr : b.cmdReady = true
  · obtain ⟨hp, hf⟩ := b.cmdReady_iff.1 hr
    cases c with
    | none => rwa [b.tick_idle_none cfg hp]
    | some p =>
      rw [b.tick_ready cfg hp hf]
      exact Block.accept_mode_ne_uninit p
  · rwa [Block.tick_mode fun hr' => absurd hr' hr]

/-! ### The modes along an instruction -/

/-- Every instruction but INIT is a WRITE (R71, R103). -/
theorem portsOf_of_ne_init {i : Instr} (hi : i ≠ .init) : ∃ op data sel, portsOf i = writePorts op data sel := by
  obtain ⟨row, hrow, data, sel, rfl⟩ | rfl | ⟨op, data, sel, rfl⟩ := catalog_or_init_or_write i
  · exact ⟨row.2, data, sel, portsOf_catalogRows hrow data sel⟩
  · exact absurd rfl hi
  · exact ⟨op, data, sel, rfl⟩

/-- Before INIT a WRITE fails the check of its opcode or that of the bus (R105). -/
theorem Block.doWrite_of_uninit (hb : b.busInit = false) (op : Opcode) (data : Data) (sel : Nat) :
    ∃ x, (x = .invalidOpcode ∨ x = .busUninit) ∧ b.doWrite cfg op data sel = b.raise x := by
  cases hv : validOpcode op with
  | false => exact ⟨_, .inl rfl, b.doWrite_invalid cfg op data sel hv⟩
  | true => exact ⟨_, .inr rfl, b.doWrite_bus cfg op data sel hv hb⟩

/-- After INIT a WRITE starts its transaction, or fails the check of its opcode or that of its line (R105). -/
theorem Block.doWrite_of_init (hb : b.busInit = true) (op : Opcode) (data : Data) (sel : Nat) :
    b.doWrite cfg op data sel = b.startWrite op data sel ∨
      ∃ x, (x = .invalidOpcode ∨ x = .selUninit) ∧ b.doWrite cfg op data sel = b.raise x := by
  cases hv : validOpcode op with
  | false => exact .inr ⟨_, .inl rfl, b.doWrite_invalid cfg op data sel hv⟩
  | true =>
    cases hl : b.lineReady cfg sel with
    | false => exact .inr ⟨_, .inr rfl, b.doWrite_sel cfg op data sel hv hb hl⟩
    | true => exact .inl (b.doWrite_start cfg op data sel hv hb hl)

/-- An accepted command with something wrong in it leads to FAULTED with its cause (R136, R147). -/
theorem exec_mode_of_raise {i : Instr} {x : Cause} (hr : s.blk.cmdReady = true) (hx : x ≠ .noFault)
    (ha : s.blk.accept s.cfg (portsOf i) = s.blk.raise x) :
    ∃ t, exec i s = .next t ∧ t.blk.mode = .faulted ∧ t.blk.faultCause = x :=
  ⟨_, exec_of_raise hr ha, Block.mode_eq_faulted_iff.2 hx, rfl⟩

/-- In UNINIT every instruction but INIT leads to FAULTED (R147). -/
theorem State.Inv.exec_of_uninit (h : s.Inv) (hm : s.blk.mode = .uninit) {i : Instr} (hi : i ≠ .init) :
    ∃ t, exec i s = .next t ∧ t.blk.mode = .faulted ∧
      (t.blk.faultCause = .invalidOpcode ∨ t.blk.faultCause = .busUninit) := by
  have hr := h.block.cmdReady_of_uninit hm
  obtain ⟨-, hb⟩ := Block.mode_eq_uninit_iff.1 hm
  obtain ⟨op, data, sel, hport⟩ := portsOf_of_ne_init hi
  obtain ⟨x, hx, ha⟩ := Block.doWrite_of_uninit (cfg := s.cfg) hb op data sel
  have hne : x ≠ .noFault := by obtain rfl | rfl := hx <;> decide
  obtain ⟨t, ht, hmode, rfl⟩ := exec_mode_of_raise hr hne (by rw [hport]; exact ha)
  exact ⟨t, ht, hmode, hx⟩

/-- In READY and IDLE every instruction but INIT starts a transaction or leads to FAULTED (R147). -/
theorem exec_of_ready (hr : s.blk.cmdReady = true) (hm : s.blk.mode = .ready) {i : Instr} (hi : i ≠ .init) :
    ∃ t, exec i s = .next t ∧ ((t.blk.mode = .ready ∧ t.blk.phase = .selected) ∨
      (t.blk.mode = .faulted ∧ (t.blk.faultCause = .invalidOpcode ∨ t.blk.faultCause = .selUninit))) := by
  obtain ⟨-, hb⟩ := Block.mode_eq_ready_iff.1 hm
  obtain ⟨op, data, sel, hport⟩ := portsOf_of_ne_init hi
  obtain ha | ⟨x, hx, ha⟩ := Block.doWrite_of_init (cfg := s.cfg) hb op data sel
  · have ht : (s.tick (some (portsOf i))).blk = s.blk.startWrite op data sel := by
      rw [hport, State.tick_blk_of_ready hr]
      exact ha
    exact ⟨_, exec_eq_tick s i, .inl ⟨by rw [ht]; exact hm, by rw [ht]; rfl⟩⟩
  · have hne : x ≠ .noFault := by obtain rfl | rfl := hx <;> decide
    obtain ⟨t, ht, hmode, rfl⟩ := exec_mode_of_raise hr hne (by rw [hport]; exact ha)
    exact ⟨t, ht, .inr ⟨hmode, hx⟩⟩

/-- Settles O42: the instructions by exec_of_uninit, exec_of_ready and exec_mode_of_raise, the ticks of a busy block by
Block.tick_mode and Block.tick_phase_of_busy; a step without a RESET line is a tick (step_blk_of_no_reset), which does not
lead back to UNINIT (Block.tick_mode_ne_uninit) and does nothing in FAULTED. -/
theorem modeTransitions : Obligations.ModeTransitions := by
  intro s hinv
  have hready (hm : s.blk.mode = .ready) (hp : s.blk.phase = .idle) : s.blk.cmdReady = true :=
    s.blk.cmdReady_iff.2 ⟨hp, (Block.mode_eq_ready_iff.1 hm).1⟩
  refine ⟨fun t hhead hs => ?_, fun hm => ?_, fun hm i => hinv.exec_of_uninit hm,
    fun hm hp i => exec_of_ready (hready hm hp) hm, fun hm hp => ?_, fun hm hp c => ⟨?_, ?_⟩,
    Block.tick_mode fun _ => rfl, fun hm i => ?_, fun t hs hm hm' => ?_, fun t hs hm hm' => ?_⟩
  · obtain ⟨rest, hh⟩ := List.head?_eq_some_iff.1 hhead
    rw [step_of_moved (fetch_reset hh)] at hs
    cases hs
    rfl
  · obtain ⟨hf, hb⟩ := Block.mode_eq_uninit_iff.1 hm
    exact ⟨_, exec_init_of_uninit (hinv.block.cmdReady_of_uninit hm) hb, Block.mode_eq_ready_iff.2 ⟨hf, rfl⟩⟩
  · exact exec_mode_of_raise (hready hm hp) (by decide) (s.blk.doInit_of_init s.cfg (Block.mode_eq_ready_iff.1 hm).2)
  · exact (Block.tick_mode fun hr => absurd (s.blk.cmdReady_iff.1 hr).1 hp).trans hm
  · exact Block.tick_phase_of_busy (Block.mode_eq_ready_iff.1 hm).1 hp
  · obtain ⟨-, hexec, -⟩ := faultedIsInert s hinv (Block.mode_eq_faulted_iff.1 hm)
    exact ⟨s, hexec i, hm⟩
  · by_contra hhead
    obtain hblk | ⟨c, hblk⟩ := step_blk_of_no_reset hs hhead <;> rw [hblk] at hm'
    · exact hm hm'
    · exact Block.tick_mode_ne_uninit hm c hm'
  · by_contra hhead
    obtain ⟨-, -, -, -, -, -, hkeep⟩ := faultedIsInert s hinv (Block.mode_eq_faulted_iff.1 hm)
    exact hm' (by rw [(hkeep t hs hhead).1, hm])

end Sys2Proof.Machine
end

section
/-! SUPPORT. Reset in mid-frame (R162): what the device on the line has received when the pulse comes, and what the observer
records of it; and the openings of a run (R164). -/

namespace Sys2Proof.Machine

variable {s : State} {d : Device} {f : Frame}

/-! ### The device when the pulse comes -/

/-- What a transaction in progress has given the device on its line (R52, R111). -/
theorem State.carries.device (h : s.carries f) (hd : s.obs.devs[s.blk.selReg]? = some d) :
    d.cnt = (24 - s.blk.bitCnt.toNat) + (if s.blk.sclkReg then 0 else 1) ∧ d.Received f := by
  obtain ⟨d', hd', -, hcnt, hrec⟩ := h
  obtain rfl : d = d' := Option.some.inj (hd.symm.trans hd')
  exact ⟨hcnt, hrec⟩

/-- The device on the line has counted at most 24 sampling edges, and after the 24th the last bit is out: with the
clock low a bit is still to be counted (R33 item 4, R111). -/
theorem State.Inv.sampled_le (h : s.Inv) (hp : s.blk.phase ≠ .idle)
    (hcnt : d.cnt = (24 - s.blk.bitCnt.toNat) + (if s.blk.sclkReg then 0 else 1)) :
    d.cnt ≤ 24 ∧ (d.cnt = 24 → s.blk.bitCnt.toNat ≤ 1) := by
  have hle := h.bitCnt_le hp
  cases hs : s.blk.sclkReg with
  | true =>
    rw [hs, if_pos rfl] at hcnt
    omega
  | false =>
    have hleft : s.blk.bitCnt.toNat ≠ 0 := fun h0 => (h.of_clock_low hp hs).2 (BitVec.eq_of_toNat_eq h0)
    rw [hs, if_neg Bool.false_ne_true] at hcnt
    omega

/-- The bits of a cut record that the device has sampled are the leading bits of the frame (R162). -/
theorem Device.Received.getLsbD_receivedBits (h : d.Received f) (hcnt : d.cnt ≤ 24) (free : Frame) {j : Nat}
    (hj : j < d.cnt) :
    (receivedBits d.cnt d.sr free).getLsbD j = f.getLsbD (24 - d.cnt + j) := by
  rw [receivedBits_getLsbD _ _ _ _ (hj.trans_le hcnt), if_pos hj, h j hj]

/-- Settles O46: the line moves the script and pulses reset (fetch_reset). With a pull-up the record is the cut one
(State.Active.resetPulse_cut), whose bits are the sampled ones below n and free from n on; on a floating line everything is
the free value's (State.Active.resetPulse_float). -/
theorem resetInMidFrameRecordsThePart : Obligations.ResetInMidFrameRecordsThePart := by
  intro s rest f d hinv hh hp hcar hd
  have ha : (s.withHost rest).Active d :=
    (hinv.of_host (t := s.withHost rest) rfl rfl rfl).active_of_dev hp hd
  obtain ⟨hcnt, hrec⟩ := hcar.device hd
  obtain ⟨hle, hlast⟩ := hinv.sampled_le hp hcnt
  refine ⟨_, step_of_moved (fetch_reset hh), rfl, fun hpull => ?_, fun hfloat => ?_⟩
  · refine ⟨receivedBits d.cnt d.sr (Config.unreceivedBits s.obs.draws s.blk.selReg), ?_, hle, hlast,
      fun j hj => hrec.getLsbD_receivedBits hle _ hj, fun j hn hj => ?_⟩
    · rw [ha.resetPulse_cut hp hpull]
      rfl
    · rw [receivedBits_getLsbD _ _ _ _ hj, if_neg hn.not_gt]
  · rw [ha.resetPulse_float hp hfloat]
    rfl

/-! ### The first command after reset -/

/-- Settles O48: the reset state accepts every command, each but INIT is a WRITE (portsOf_of_ne_init), and on an
uninitialised bus a WRITE faults (Block.doWrite_of_uninit). -/
theorem everyOpeningButInitFaults : Obligations.EveryOpeningButInitFaults := by
  intro cfg host i hi
  obtain ⟨op, data, sel, hport⟩ := portsOf_of_ne_init hi
  obtain ⟨x, hx, hwrite⟩ := Block.doWrite_of_uninit (cfg := cfg) (Block.reset_busInit cfg) op data sel
  have hraise : (Block.reset cfg).accept cfg (portsOf i) = (Block.reset cfg).raise x := by
    rw [hport, Block.accept_write, hwrite]
  exact ⟨x, hx, exec_of_raise (s := State.start cfg host) rfl hraise⟩

end Sys2Proof.Machine
end
